-- ==== Sys2Proof/Word.lean ====
section
/-! DEFINITION. The value types of the block (spec 00_scope.md R8, 44_operation_laws.md R120): every value is unsigned. -/

namespace Sys2Proof

/-- "A byte is an unsigned 8-bit value 0..255" (R8): a buffer cell, a pattern, a wire byte, a numeric operand. -/
abbrev Byte := BitVec 8

/-- A grid address, 0..15: the cells of the buffer space and of the device space (20_memory.md R34). A 16-value type,
as 92_eei_decisions.md D25 takes it, so that no access outside 0..15 can be written down. -/
abbrev GridAddr := Fin 16

/-- The brightness field: 3 bits, 0..7 (10_state.md R13). -/
abbrev Brightness := BitVec 3

/-- The 28-bit host request word `REQ` (30_encoding.md R60). -/
abbrev ReqWord := BitVec 28

end Sys2Proof
end

