-- ==== Sys2Proof/Syntax.lean ====
section
/-! DEFINITION. The operations of the block: one constructor of `Instr` for each row of spec/opcode_table.json
(30_encoding.md R61, R62), and the words of its two formats with bits. -/

namespace Sys2Proof

/-- The addressing argument of a data command (10_state.md R22, 41_command_encoder.md R91). -/
inductive Addressing
  | autoIncrement
  | fixed
  deriving DecidableEq, Repr, Inhabited

/-- The source's tagged variant `Command` (10_state.md R22): the argument type of the encoder functions, never stored. -/
inductive Command
  | dataCommand (addressing : Addressing)
  | displayControl (enabled : Bool) (brightness : Byte)
  | address (value : GridAddr)
  deriving DecidableEq, Repr

/-- One constructor per row of spec/opcode_table.json. -/
inductive Instr
  -- wire command bytes (30_encoding.md R53 to R57)
  /-- DATA_AUTO: the data command for auto-increment addressing. -/
  | dataAuto
  /-- DATA_FIXED: the data command for fixed addressing. -/
  | dataFixed
  /-- DISP_OFF: the display control byte, display off. -/
  | dispOff
  /-- DISP_ON: the display control byte, display on, with its level field `l`. -/
  | dispOn (l : Brightness)
  /-- ADDR: the address command byte with its field `a`. -/
  | addr (a : GridAddr)
  -- host operations (30_encoding.md R61)
  /-- INIT: `init()`. -/
  | init
  /-- DEINIT: `deinit()`. -/
  | deinit
  /-- SETBRT: `setBrightness(level)`. -/
  | setbrt (level : Byte)
  /-- SETON: `setDisplayOn(on)`. -/
  | seton (on : Bool)
  /-- CLEAR: `clear()`. -/
  | clear
  /-- WRGRID: `writeGrid(address, data)`. -/
  | wrgrid (address data : Byte)
  /-- WRARR: `writeGridArray(start, data, length)`; `data` is the payload PAY. -/
  | wrarr (start length : Byte) (data : List Byte)
  /-- GETBUF: `getBuffer(address)`. -/
  | getbuf (address : Byte)
  /-- SETBUF: `setBuffer(address, data)`. -/
  | setbuf (address data : Byte)
  /-- SETBIT: `setBufferBit(address, mask, set)`. -/
  | setbit (address mask : Byte) (set : Bool)
  /-- FLUSH: `flush()`. -/
  | flush
  /-- DIGIT: `digitPattern(d)`. -/
  | digit (d : Byte)
  /-- HEX: `hexPattern(h)`. -/
  | hex (h : Byte)
  /-- CHAR: `charPattern(c)`. -/
  | char (c : Byte)
  /-- TEST: `test()`. -/
  | test
  /-- RESERVED_15: the reserved operation select code (30_encoding.md R63). -/
  | reserved15
  -- internal operations (30_encoding.md R62): no bits select them
  /-- delay: `delay()`. -/
  | delay
  /-- driveClock: `driveClock(v)`. -/
  | driveClock (v : Bool)
  /-- driveData: `driveData(v)`. -/
  | driveData (v : Bool)
  /-- start: `start()`. -/
  | start
  /-- stop: `stop()`. -/
  | stop
  /-- writeByte: `writeByte(b)`. -/
  | writeByte (b : Byte)
  /-- sendCommand: `sendCommand(b)`. -/
  | sendCommand (b : Byte)
  /-- writeAddress: `writeAddress(a)`. -/
  | writeAddress (a : GridAddr)
  /-- writeBlock: `writeBlock(a, bytes)`. -/
  | writeBlock (a : GridAddr) (bytes : List Byte)
  /-- releaseLines: `releaseLines()`. -/
  | releaseLines
  /-- buildDataCommand: `buildDataCommand(addressing)`. -/
  | buildDataCommand (addressing : Addressing)
  /-- buildDisplayControl: `buildDisplayControl(enabled, brightness)`. -/
  | buildDisplayControl (enabled : Bool) (brightness : Byte)
  /-- buildAddress: `buildAddress(addr)`. -/
  | buildAddress (a : GridAddr)
  deriving DecidableEq, Repr

/-- A host request: the word `REQ` and the payload `PAY` (30_encoding.md R60). This is all that the host can present:
"Only the 15 host operations can be requested by the host" (R62). -/
structure Request where
  req : ReqWord
  pay : List Byte
  deriving DecidableEq, Repr

/-- A word of spec/opcode_table.json with bits, the two formats of 30_encoding.md R62: a host request (R60), or a wire
command byte (R53), which no request can be. The rows of format `internal` have no word. -/
inductive TableWord
  | host (r : Request)
  | wire (b : Byte)
  deriving DecidableEq, Repr

end Sys2Proof
end

