-- ==== Sys2Proof/Config.lean ====
section
/-! DEFINITION. The open parameters of the block (00_scope.md R7) and the free values: an `opaque` constant is a value that
the spec leaves open, and nothing can be proved of it. The parameters to which the spec gives a value stand in
Sys2Proof/Machine/Parameters.lean. -/

namespace Sys2Proof

/-- All grid addresses, `N_GRID` = 16 of them (R7), ascending: the order of every whole-buffer loop (44_operation_laws.md R124). -/
def Config.grids : List GridAddr := [0, 1, 2, 3, 4, 5, 6, 7, 8, 9, 10, 11, 12, 13, 14, 15]

/-- `LETTER_TABLE[0..25]` (R133): OPEN, 26 arbitrary bytes; no value may be assumed of any entry (log 12). Safe. -/
opaque Config.letterTable : Fin 26 → Byte

/-- The segments of a grid (00_scope.md R9; 10_state.md R12). -/
inductive Segment
  | a | b | c | d | e | f | g | decimalPoint
  deriving DecidableEq, Repr

/-- `T_DELAY`: the minimum duration of one `DLY`, a positive duration in an unnamed unit; OPEN (log 18; D14). No meaning
reads it. -/
opaque Config.tDelay : ℕ+

/-- How the backend maps a logical level to a pin level (10_state.md R14). -/
inductive Polarity
  | direct
  | inverted
  deriving DecidableEq, Repr, Inhabited

/-- `SIGNAL_POLARITY`: OPEN, applied by the backend; no rule of the engine reads it (log 18; D15). -/
opaque Config.signalPolarity : Polarity

/-- The wiring convention of the display (00_scope.md R7). -/
inductive DisplayPolarity
  | commonAnode
  | commonCathode
  deriving DecidableEq, Repr, Inhabited

/-- `DISPLAY_POLARITY`: OPEN; "no rule reads it" (R7; log 18; D16). -/
opaque Config.displayPolarity : DisplayPolarity

/-- FREE VALUE (log 7): what `RESULT` holds after a host operation that returns nothing, "unspecified" (30_encoding.md
R60; D28, U15), at each use of the counter. -/
opaque Config.freeResult : Nat → Byte

/-- FREE VALUE (log 9, 10): `DEV_PTR` where it is unspecified (20_memory.md R46). -/
opaque Config.freePtr : Nat → GridAddr

/-- FREE VALUE (log 10): `DEV_MODE` after a frame to which the spec gives no meaning (U12). -/
opaque Config.freeMode : Nat → Addressing

/-- FREE VALUE (log 10): `DEV_ON` after a frame to which the spec gives no meaning (U12). -/
opaque Config.freeOn : Nat → Bool

/-- FREE VALUE (log 10): `DEV_LEVEL` after a frame to which the spec gives no meaning (U12). -/
opaque Config.freeLevel : Nat → Brightness

/-- FREE VALUE (log 10): a cell of `DEV_MEM` after a frame to which the spec gives no meaning (U12). -/
opaque Config.freeCell : Nat → GridAddr → Byte

end Sys2Proof
end

