-- ==== Sys2Proof/Machine/State.lean ====
section
/-! DEFINITION. The state of the machine, all of it plain data: the block's own state (10_state.md R10), the host
interface (30_encoding.md R60), and the reference observer of the device (20_memory.md R45). -/

namespace Sys2Proof.Machine

/-- The logical level of a line: "Each is 0, 1 or **unknown**" (10_state.md R14). -/
inductive Level
  | low
  | high
  | unknown
  deriving DecidableEq, Repr

/-- The event alphabet, "exactly `CLK(0)`, `CLK(1)`, `DAT(0)`, `DAT(1)`, `DLY`, `REL`" (40_bus_protocol.md R70). -/
inductive Event
  | clk (v : Bool)
  | dat (v : Bool)
  | dly
  | rel
  deriving DecidableEq, Repr

/-- The life-cycle state (10_state.md R15). -/
inductive Life
  | uninit
  | active
  | released
  deriving DecidableEq, Repr

/-- A space of 16 byte cells as (address, byte) pairs, in ONE canonical form: addresses strictly rising and below 16, and
no cell that holds what an unlisted address reads as (`Memory.unlisted`). -/
abbrev Memory := List Host.Cell

/-- What an unlisted address reads as: "`BUF[0..15]` `0x00` each" after reset (10_state.md R23). For `DEV_MEM`, whose
power-on contents the spec leaves open, the same byte is a DESIGN CHOICE (log 8; unsafe). -/
def Memory.unlisted : Byte := 0x00#8

/-- The observer state `DEV_MEM`, `DEV_MODE`, `DEV_PTR`, `DEV_ON`, `DEV_LEVEL` (20_memory.md R45), and the model's own
counter of the free values it has used (log 9, 10). -/
structure Device where
  mem : Memory
  mode : Addressing
  ptr : GridAddr
  on : Bool
  level : Brightness
  draws : Nat
  deriving DecidableEq, Repr

/-- The device at power-on. "All are unspecified until a frame sets them" (R45): these values are a DESIGN CHOICE
(log 8; unsafe). -/
def Device.powerOn : Device :=
  { mem := [], mode := .autoIncrement, ptr := 0, on := false, level := 0#3, draws := 0 }

/-- The two lines and what listens to them: the latches `CLK` and `DAT` (10_state.md R14), the levels sampled since the
last START when a frame is open (20_memory.md R43), and the observer (R45). -/
structure Wire where
  clk : Level
  dat : Level
  rx : Option (List Level)
  dev : Device
  deriving DecidableEq, Repr

/-- The lines after reset: both levels unknown (10_state.md R23), no frame open. -/
def Wire.reset : Wire := { clk := .unknown, dat := .unknown, rx := none, dev := Device.powerOn }

/-- Where the word of the next step comes from: the MODEL's own, no state of the block. `host` is what the host presents,
oldest first: requests, and so host operations only (30_encoding.md R60, R62; log 1). `bench` is a wire command byte that a
test bench, which is not the host and not part of the block, has the block send at the next step, so that a row of that
format can be run by a step (DESIGN CHOICE, log 3). It is empty at reset and no step fills it. -/
structure Port where
  host : List Request
  bench : Option Byte
  deriving DecidableEq, Repr

/-- Nothing presented. -/
def Port.empty : Port := { host := [], bench := none }

/-- The state of the machine. -/
structure State where
  /-- `BUF[0..15]` (10_state.md R11). -/
  buf : Memory
  /-- `EN` (R13). -/
  en : Bool
  /-- `BRT` (R13). -/
  brt : Brightness
  /-- `LIFE` (R15). -/
  life : Life
  /-- `CLK`, `DAT` (R14) and the observer of the lines (20_memory.md R43 to R46). -/
  wire : Wire
  /-- `TRACE`, oldest first (R16). -/
  trace : List Event
  /-- `RESULT` (30_encoding.md R60). -/
  result : Byte
  /-- The model's own: how many free values `RESULT` has taken (log 7). -/
  draws : Nat
  /-- The model's own: the byte that an encoder function performed on its own returns to its caller (41_command_encoder.md
  R90; log 4). -/
  encRet : Byte
  /-- The model's own: what is presented to the next steps (R60, R62; log 1, 3). -/
  port : Port
  deriving DecidableEq, Repr

/-- The machine right after reset, "the creation of the block" (10_state.md R23, 70_reset_and_hazards.md R160). `EN` and
`BRT` are unspecified there: false and 0 are a DESIGN CHOICE (log 5; unsafe). `result`, `encRet` and the counters are a
DESIGN CHOICE (log 6; unsafe). -/
def State.reset : State :=
  { buf := [], en := false, brt := 0#3, life := .uninit, wire := Wire.reset, trace := [],
    result := 0x00#8, draws := 0, encRet := 0x00#8, port := Port.empty }

/-- `CLK` (R14). -/
abbrev State.clk (s : State) : Level := s.wire.clk

/-- `DAT` (R14). -/
abbrev State.dat (s : State) : Level := s.wire.dat

/-- The device observer's registers (20_memory.md R45). -/
abbrev State.dev (s : State) : Device := s.wire.dev

/-- The reasons a step can stop with a fault: NONE. "The block raises no synchronous exception. The list of exception
causes is empty" (60_exceptions.md R140); no entry of 93_implementation_defined.md is `fault` or `stuck`. -/
inductive Fault
  deriving DecidableEq, Repr

/-- The cases to which the spec gives no meaning (`refuse`, 60_exceptions.md R142): "A model has no step there and must
not treat the case as a silent no-op". -/
inductive Refusal
  /-- No meaning written yet. Raised by an arm of `exec` only; no arm raises it now. Safe. -/
  | notModelled (mnemonic : String)
  /-- A host operation other than `init()` and the pattern lookups outside `LIFE = ACTIVE` (42_driver_api.md R100, U1).
  Raised by the twelve driver operations but `init()`. Safe. -/
  | notActive (life : Life)
  /-- `OP_SEL = 15` (30_encoding.md R63, U2). Raised by RESERVED_15. Safe. -/
  | reservedOpSel
  /-- `writeGridArray` with fewer payload bytes than the clamped count (42_driver_api.md R105, U4). Raised by WRARR. Safe. -/
  | payloadTooShort
  /-- `writeBlock(a, bytes)` outside its operand range `0 <= n <= 16 - a` (40_bus_protocol.md R78). Raised by the internal
  operation writeBlock performed on its own. Safe. -/
  | blockTooLong
  /-- A byte of the test bench that is no command byte (30_encoding.md R63). Raised by the step, which cannot decode it.
  Safe. -/
  | notACommandByte (b : Byte)
  deriving DecidableEq, Repr

end Sys2Proof.Machine
end

