-- ==== Sys2Proof/Machine/Flags.lean ====
section
/-! DEFINITION. "The block has no status flags, condition codes or predicates. No operation records an outcome"
(10_state.md R18): no meaning computes a flag. The one register with fields is the display state, drawn by R13 as a
4-bit control register; its view stands here. -/

namespace Sys2Proof.Machine

/-- The display state as one 4-bit field, `EN` in bit 3 and `BRT` in bits 2:0 (R13). A presentation of the spec: it has no
address and no operation reads it back. -/
def State.control (s : State) : BitVec 4 := BitVec.ofBool s.en ++ s.brt

end Sys2Proof.Machine
end

