-- ==== Sys2Proof/WellFormed.lean ====
section
/-! DEFINITION. Which terms of `Instr` are operations of the block: the operand ranges that the types do not already
hold. Every other operand range is in the types of `Instr` (D25, R120). -/

namespace Sys2Proof

/-- "`n <- min(length, 16 - start)`" on natural numbers (42_driver_api.md R105): the clamped count, for `start < 16`. -/
def WellFormed.clampedCount (start length : Nat) : Nat := min length (16 - start)

/-- The host's obligation of R105: for `start < 16` the payload holds at least the clamped count of bytes
(92_eei_decisions.md D18). -/
def WellFormed.arrayHasItsBytes (start length : Byte) (data : List Byte) : Bool :=
  decide (16 ≤ start.toNat) || decide (WellFormed.clampedCount start.toNat length.toNat ≤ data.length)

/-- The operand range of `writeBlock(a, bytes)`: "`0 <= n <= 16 - a`" (40_bus_protocol.md R78). -/
def WellFormed.blockFits (a : GridAddr) (bytes : List Byte) : Bool := decide (a.val + bytes.length ≤ 16)

/-- An instruction is well formed when its operands are in the ranges that the spec gives. -/
def wellFormed : Instr → Bool
  | .dataAuto => true
  | .dataFixed => true
  | .dispOff => true
  | .dispOn _ => true
  | .addr _ => true
  | .init => true
  | .deinit => true
  | .setbrt _ => true
  | .seton _ => true
  | .clear => true
  | .wrgrid _ _ => true
  | .wrarr start length data => WellFormed.arrayHasItsBytes start length data
  | .getbuf _ => true
  | .setbuf _ _ => true
  | .setbit _ _ _ => true
  | .flush => true
  | .digit _ => true
  | .hex _ => true
  | .char _ => true
  | .test => true
  | .reserved15 => true
  | .delay => true
  | .driveClock _ => true
  | .driveData _ => true
  | .start => true
  | .stop => true
  | .writeByte _ => true
  | .sendCommand _ => true
  | .writeAddress _ => true
  | .writeBlock a bytes => WellFormed.blockFits a bytes
  | .releaseLines => true
  | .buildDataCommand _ => true
  | .buildDisplayControl _ _ => true
  | .buildAddress _ => true

end Sys2Proof
end

