-- ==== Sys2Proof/Decode.lean ====
section
/-! DEFINITION. Decoding, total on every word, and the encoder, both written from spec/opcode_table.json
(30_encoding.md R53 to R57 for the wire command bytes, R60 and R61 for the host request word). -/

namespace Sys2Proof

/-! ### Fields of a word -/

/-- `OP_SEL = REQ[27:24]` (R60). -/
def reqOpSel (req : ReqWord) : Nat := req.toNat / 2 ^ 24 % 16

/-- `A = REQ[23:16]` (R60). -/
def reqA (req : ReqWord) : Byte := BitVec.ofNat 8 (req.toNat / 2 ^ 16)

/-- `B = REQ[15:8]` (R60). -/
def reqB (req : ReqWord) : Byte := BitVec.ofNat 8 (req.toNat / 2 ^ 8)

/-- `C = REQ[7:0]` (R60). -/
def reqC (req : ReqWord) : Byte := BitVec.ofNat 8 req.toNat

/-- "A boolean operand is true when its byte is not zero" (R60). -/
def byteIsTrue (b : Byte) : Bool := b != 0#8

/-- The field `L2 L1 L0` of a display control byte (R53). -/
def wireLevel (b : Byte) : Brightness := BitVec.ofNat 3 b.toNat

/-- The field `A3..A0` of an address command byte (R53). -/
def wireAddr (b : Byte) : GridAddr := ⟨b.toNat % 16, Nat.mod_lt _ (by decide)⟩

/-! ### Decoding -/

/-- A wire command byte: the five rows of format `wire_command_byte`, each tested with its mask and its match. Any other
byte is "never produced as a command byte" and has no meaning (R63): refused. -/
def decodeWire (b : Byte) : Option Instr :=
  if b &&& 0xFF#8 = 0x40#8 then some .dataAuto
  else if b &&& 0xFF#8 = 0x44#8 then some .dataFixed
  else if b &&& 0xFF#8 = 0x80#8 then some .dispOff
  else if b &&& 0xF8#8 = 0x88#8 then some (.dispOn (wireLevel b))
  else if b &&& 0xF0#8 = 0xC0#8 then some (.addr (wireAddr b))
  else none

/-- A host request, by its operation select code (R61). Fields an operation does not use are ignored (R60). -/
def decodeHost (req : ReqWord) (pay : List Byte) : Instr :=
  match reqOpSel req with
  | 0 => .init
  | 1 => .deinit
  | 2 => .setbrt (reqA req)
  | 3 => .seton (byteIsTrue (reqA req))
  | 4 => .clear
  | 5 => .wrgrid (reqA req) (reqB req)
  | 6 => .wrarr (reqA req) (reqB req) pay
  | 7 => .getbuf (reqA req)
  | 8 => .setbuf (reqA req) (reqB req)
  | 9 => .setbit (reqA req) (reqB req) (byteIsTrue (reqC req))
  | 10 => .flush
  | 11 => .digit (reqA req)
  | 12 => .hex (reqA req)
  | 13 => .char (reqA req)
  | 14 => .test
  | _ => .reserved15

/-- The instruction that a word stands for. Every host request is one; a byte may be no command byte. -/
def decode : TableWord → Option Instr
  | .host r => some (decodeHost r.req r.pay)
  | .wire b => decodeWire b

/-! ### Encoding -/

/-- The request word with the given fields (R60). -/
def mkReq (opSel : Nat) (a b c : Byte) : ReqWord :=
  BitVec.ofNat 28 (opSel * 2 ^ 24 + a.toNat * 2 ^ 16 + b.toNat * 2 ^ 8 + c.toNat)

/-- The byte that stands for a boolean operand. -/
def byteOfBool (v : Bool) : Byte := if v then 0x01#8 else 0x00#8

/-- The words of an instruction, from the same table; ignored fields are written as zero (log 24). The internal
operations have width 0, "no bits select them" (R62): no word. -/
def encode : Instr → Option TableWord
  | .dataAuto => some (.wire 0x40#8)
  | .dataFixed => some (.wire 0x44#8)
  | .dispOff => some (.wire 0x80#8)
  | .dispOn l => some (.wire (0x88#8 ||| BitVec.ofNat 8 l.toNat))
  | .addr a => some (.wire (0xC0#8 ||| BitVec.ofNat 8 a.val))
  | .init => some (.host ⟨mkReq 0 0 0 0, []⟩)
  | .deinit => some (.host ⟨mkReq 1 0 0 0, []⟩)
  | .setbrt level => some (.host ⟨mkReq 2 level 0 0, []⟩)
  | .seton on => some (.host ⟨mkReq 3 (byteOfBool on) 0 0, []⟩)
  | .clear => some (.host ⟨mkReq 4 0 0 0, []⟩)
  | .wrgrid address data => some (.host ⟨mkReq 5 address data 0, []⟩)
  | .wrarr start length data => some (.host ⟨mkReq 6 start length 0, data⟩)
  | .getbuf address => some (.host ⟨mkReq 7 address 0 0, []⟩)
  | .setbuf address data => some (.host ⟨mkReq 8 address data 0, []⟩)
  | .setbit address mask set => some (.host ⟨mkReq 9 address mask (byteOfBool set), []⟩)
  | .flush => some (.host ⟨mkReq 10 0 0 0, []⟩)
  | .digit d => some (.host ⟨mkReq 11 d 0 0, []⟩)
  | .hex h => some (.host ⟨mkReq 12 h 0 0, []⟩)
  | .char c => some (.host ⟨mkReq 13 c 0 0, []⟩)
  | .test => some (.host ⟨mkReq 14 0 0 0, []⟩)
  | .reserved15 => some (.host ⟨mkReq 15 0 0 0, []⟩)
  | .delay => none
  | .driveClock _ => none
  | .driveData _ => none
  | .start => none
  | .stop => none
  | .writeByte _ => none
  | .sendCommand _ => none
  | .writeAddress _ => none
  | .writeBlock _ _ => none
  | .releaseLines => none
  | .buildDataCommand _ => none
  | .buildDisplayControl _ _ => none
  | .buildAddress _ => none

/-! ### A word as the opcode table numbers it -/

/-- The word whose bits are `w`, for a table row of `nbits` bits: 8 for a wire command byte, 28 (32 in whole bytes)
for a host request. The payload that the table gives no bits is bytes of zero, the longest that an operation can use
(16). Bits above the row's width make it no word, and a row of width 0 has none (log 2). -/
def tableWord? (nbits w : Nat) : Option TableWord :=
  if nbits = 8 ∧ w < 2 ^ 8 then some (.wire (BitVec.ofNat 8 w))
  else if (nbits = 28 ∨ nbits = 32) ∧ w < 2 ^ 28 then some (.host ⟨BitVec.ofNat 28 w, List.replicate 16 0x00#8⟩)
  else none

/-- The instruction that the decoder reads from a word of the opcode table. -/
def decodeTableWord (nbits w : Nat) : Option Instr := (tableWord? nbits w).bind decode

end Sys2Proof
end

