-- ==== Sys2Proof/Machine/Memory.lean ====
section
/-! DEFINITION. The access primitives of a space of 16 byte cells: `MemRead(a, 1)` and `MemWrite(a, 1, v)` of
20_memory.md R31, "defined only for `a` in 0..15 and only for width 1", and the runs built from them (R37, R124). -/

namespace Sys2Proof.Machine

/-- `MemRead(a, 1)` (R31). -/
def Memory.read : Memory → GridAddr → Byte
  | [], _ => Memory.unlisted
  | (k, v) :: rest, a => if k = a.val then v else Memory.read rest a

/-- The cell `(a, v)` before `rest`, left out when it holds what an unlisted address reads as. -/
def Memory.cons (a : GridAddr) (v : Byte) (rest : Memory) : Memory :=
  if v = Memory.unlisted then rest else (a.val, v) :: rest

/-- `MemWrite(a, 1, v)` (R31), keeping the canonical form. -/
def Memory.write : Memory → GridAddr → Byte → Memory
  | [], a, v => Memory.cons a v []
  | (k, w) :: rest, a, v =>
    if k < a.val then (k, w) :: Memory.write rest a v
    else if k = a.val then Memory.cons a v rest
    else Memory.cons a v ((k, w) :: rest)

/-- The cells from address `lo` on are in canonical form. -/
def Memory.wfFrom : Nat → Memory → Bool
  | _, [] => true
  | lo, (k, v) :: rest => decide (lo ≤ k) && decide (k < 16) && (v != Memory.unlisted) && Memory.wfFrom (k + 1) rest

/-- The memory is in canonical form, so that equal contents are equal data. -/
def Memory.wf (m : Memory) : Bool := Memory.wfFrom 0 m

/-- The contents, ascending: `[BUF[0], BUF[1], ..., BUF[15]]` (42_driver_api.md R109). -/
def Memory.bytes (m : Memory) : List Byte := Config.grids.map m.read

/-- Every cell written, ascending: cell `a` with `f a`. -/
def Memory.overwrite (m : Memory) (f : GridAddr → Byte) : Memory := Config.grids.foldl (fun m a => m.write a (f a)) m

/-- "`for i = 0..15: BUF[i] <- v`" (R101, R103, R112). -/
def Memory.fill (m : Memory) (v : Byte) : Memory := m.overwrite fun _ => v

/-- "`for i = 0..n-1: BUF[start + i] <- data[i]`" (R105), for the bytes of a list. The callers keep `start + n <= 16`
(44_operation_laws.md R121), so the test never fails. -/
def Memory.writeRun : Memory → Nat → List Byte → Memory
  | m, _, [] => m
  | m, p, b :: bs => if h : p < 16 then Memory.writeRun (m.write ⟨p, h⟩ b) (p + 1) bs else m

end Sys2Proof.Machine
end

