-- ==== Sys2Proof/Machine/Observer.lean ====
section
/-! DEFINITION. What listens to the two lines. The latches after an event (40_bus_protocol.md R70), the START and STOP
conditions (R81), the frames of a trace (20_memory.md R43), and the reference observer of the device (R45, R46). The
observer is not part of the block: nothing the engine does reads it (60_exceptions.md R147). -/

namespace Sys2Proof.Machine

/-! ### Lines -/

/-- The level that a drive call with argument `v` gives a line: "1 is the source's high and 0 its low" (00_scope.md R8). -/
def Level.ofBool (v : Bool) : Level := if v then .high else .low

/-- The bit a level stands for, when it is known. -/
def Level.bit? : Level → Option Bool
  | .low => some false
  | .high => some true
  | .unknown => none

/-- The pair `(CLK, DAT)` after an event (R70). -/
def linesAfter (e : Event) (p : Level × Level) : Level × Level :=
  match e with
  | .clk v => (Level.ofBool v, p.2)
  | .dat v => (p.1, Level.ofBool v)
  | .dly => p
  | .rel => (.unknown, .unknown)

/-- The waveform of a list of events: "the sequence of pairs `(CLK, DAT)` after each event, starting from the levels
before the first event" (R81). -/
def waveform : Level × Level → List Event → List (Level × Level)
  | _, [] => []
  | p, e :: es => linesAfter e p :: waveform (linesAfter e p) es

/-- A START condition: "a fall of `DAT` while `CLK = 1`" (R81). A change from an unknown level is none (log 11). -/
def isStart (p q : Level × Level) : Bool :=
  p.1 == .high && q.1 == .high && p.2 == .high && q.2 == .low

/-- A STOP condition: "a rise of `DAT` while `CLK = 1`" (R81). -/
def isStop (p q : Level × Level) : Bool :=
  p.1 == .high && q.1 == .high && p.2 == .low && q.2 == .high

/-- A `CLK` change from 0 to 1, at which the data line is sampled (R43, D26). -/
def isRise (p q : Level × Level) : Bool := p.1 == .low && q.1 == .high

/-- The positions in a waveform, counted from `n`, at which a condition holds. -/
def conditionsAt (cond : Level × Level → Level × Level → Bool) (p : Level × Level) (n : Nat) :
    List (Level × Level) → List Nat
  | [] => []
  | q :: qs => if cond p q then n :: conditionsAt cond q (n + 1) qs else conditionsAt cond q (n + 1) qs

/-! ### Frames -/

/-- The levels sampled so far when a START condition occurs. A START while a frame is open has no meaning in the spec, whose
traces never hold one (R43), and is the model's choice (DESIGN CHOICE, log 11): the open frame is marked with two unknown
samples, so that one is left among its bits even when the STOP follows with no clock rise between and the last sample is
the one dropped; it is then no frame of whole bytes (`frameBytes_openFrame`). -/
def openFrame : Option (List Level) → List Level
  | none => []
  | some bits => bits ++ [.unknown, .unknown]

/-- The levels sampled in each closed frame of a waveform (R43): "between a START and the next STOP, each `CLK` change from
0 to 1 samples the current `DAT` level as one bit". -/
def segments : Level × Level → Option (List Level) → List (Level × Level) → List (List Level)
  | _, _, [] => []
  | p, rx, q :: qs =>
    if isStart p q then segments q (some (openFrame rx)) qs
    else if isStop p q then
      match rx with
      | none => segments q none qs
      | some bits => bits :: segments q none qs
    else if isRise p q then segments q (rx.map (· ++ [q.2])) qs
    else segments q rx qs

/-- Bit `i` of a byte being put together: set when `v` is true. -/
def putBit (v : Bool) (i : Nat) (acc : Byte) : Byte := if v then acc ||| (1#8 <<< i) else acc

/-- Sampled bits "taken in groups of 8 with the first bit of each group as bit 0" (R43): `i` bits of the group `acc` are
taken. None when a bit is unknown or a group is not whole. -/
def groupBytes : Nat → Byte → List Level → Option (List Byte)
  | i, _, [] => if i = 0 then some [] else none
  | i, acc, l :: ls =>
    match l.bit? with
    | none => none
    | some v =>
      if i = 7 then (groupBytes 0 0#8 ls).map (putBit v i acc :: ·) else groupBytes (i + 1) (putBit v i acc) ls

/-- The bytes of a frame from its sampled bits: "the sampled bits number `8k + 1` for a frame of `k` bytes: the last
sampled bit is the clock rise inside `stop()` itself and is dropped" (R43), whatever its level (log 11). None for any other number, or with
an unknown level before it: what then becomes of the frame is log 29 in `frames` and log 10 in the observer. -/
def frameBytes (bits : List Level) : Option (List Byte) :=
  if bits = [] then none else groupBytes 0 0#8 bits.dropLast

/-- The sampled levels of each closed frame of a trace, from the unknown levels after reset. -/
def traceSegments (tr : List Event) : List (List Level) :=
  segments (.unknown, .unknown) none (waveform (.unknown, .unknown) tr)

/-- `frames(TRACE)` (R43): "the sequence of byte sequences the device sees". R43 does not say what a closed frame gives
whose samples are not `8k + 1` with known levels, and no trace of whole operations holds one: it is left out of the list,
while the observer that follows the lines takes free values for it (`Device.receive`, log 10), and a frame of one sample,
`k = 0`, stands in the list as the empty sequence (DESIGN CHOICE, log 29). -/
def frames (tr : List Event) : List (List Byte) := (traceSegments tr).filterMap frameBytes

/-! ### The reference observer -/

/-- One of the 27 first bytes that the engine produces (30_encoding.md R63): a row of the opcode table. -/
def isCommandByte (b : Byte) : Bool := (decodeWire b).isSome

/-- Every register of the observer at a free value: the spec gives the frame no meaning (R63, U12; log 10). -/
def Device.free (d : Device) : Device :=
  { mem := d.mem.overwrite (Config.freeCell d.draws)
    mode := Config.freeMode d.draws
    ptr := Config.freePtr d.draws
    on := Config.freeOn d.draws
    level := Config.freeLevel d.draws
    draws := d.draws + 1 }

/-- "`DEV_PTR <- DEV_PTR + 1` (unspecified once it passes 15)" (R46): past 15 it is a free value (log 9). -/
def Device.advance (d : Device) : Device :=
  if h : d.ptr.val + 1 < 16 then { d with ptr := ⟨d.ptr.val + 1, h⟩ }
  else { d with ptr := Config.freePtr d.draws, draws := d.draws + 1 }

/-- One data byte after an address command (R46): "`DEV_MEM[DEV_PTR] <- bj`", then the pointer in auto mode. -/
def Device.store (d : Device) (b : Byte) : Device :=
  match d.mode with
  | .autoIncrement => ({ d with mem := d.mem.write d.ptr b } : Device).advance
  | .fixed => { d with mem := d.mem.write d.ptr b }

/-- The observer step for a frame `[b0, b1, ..., bk]`, "selected by `b0[7:6]`" (R46). A first byte that the engine never
sends has no meaning (R63, U12; log 10). -/
def Device.command (d : Device) (b0 : Byte) (data : List Byte) : Device :=
  if isCommandByte b0 then
    if b0.extractLsb' 6 2 = 0b01#2 then { d with mode := if b0.getLsbD 2 then .fixed else .autoIncrement }
    else if b0.extractLsb' 6 2 = 0b10#2 then { d with on := b0.getLsbD 3, level := b0.extractLsb' 0 3 }
    else if b0.extractLsb' 6 2 = 0b11#2 then data.foldl Device.store { d with ptr := wireAddr b0 }
    else d.free
  else d.free

/-- The observer step for one frame of `frames(TRACE)` (R46). A frame of no byte has no first byte and so no meaning
(log 10). -/
def Device.frame (d : Device) : List Byte → Device
  | [] => d.free
  | b0 :: data => d.command b0 data

/-- The observer at the STOP that closes a frame: the sampled bits are cut into bytes; bits that are no whole bytes have
no meaning (log 10). -/
def Device.receive (d : Device) (bits : List Level) : Device :=
  match frameBytes bits with
  | some bytes => d.frame bytes
  | none => d.free

/-- "The observer is a function of `frames(TRACE)` only" (R44): the observer after a frame list. -/
def observe (d : Device) (fs : List (List Byte)) : Device := fs.foldl Device.frame d

/-- The lines and their observer after one event: the latches (R70), and the walk of R43. -/
def Wire.step (w : Wire) (e : Event) : Wire :=
  let p := (w.clk, w.dat)
  let q := linesAfter e p
  if isStart p q then { clk := q.1, dat := q.2, rx := some (openFrame w.rx), dev := w.dev }
  else if isStop p q then
    match w.rx with
    | none => { clk := q.1, dat := q.2, rx := none, dev := w.dev }
    | some bits => { clk := q.1, dat := q.2, rx := none, dev := w.dev.receive bits }
  else if isRise p q then { clk := q.1, dat := q.2, rx := w.rx.map (· ++ [q.2]), dev := w.dev }
  else { clk := q.1, dat := q.2, rx := w.rx, dev := w.dev }

/-! ### The backend and the time source -/

/-- The pin level for a logical level: "the logical level when `SIGNAL_POLARITY = Direct` and its complement when
`Inverted`" (10_state.md R14), applied by the backend, outside the engine. -/
def pinLevel : Polarity → Level → Level
  | .direct, l => l
  | .inverted, .low => .high
  | .inverted, .high => .low
  | .inverted, .unknown => .unknown

/-- The pin levels of a waveform under the open `SIGNAL_POLARITY` (R14). -/
def pinWaveform (ps : List (Level × Level)) : List (Level × Level) :=
  ps.map fun p => (pinLevel Config.signalPolarity p.1, pinLevel Config.signalPolarity p.2)

/-- The number of `DLY` events (70_reset_and_hazards.md R173). -/
def dlyCount (es : List Event) : Nat := es.countP (· == .dly)

/-- "`count x T_DELAY` is a lower bound on an operation's duration" (R173). No meaning reads it. -/
def minDuration (es : List Event) : Nat := dlyCount es * Config.tDelay

end Sys2Proof.Machine
end

