-- ==== Sys2Proof/Machine/Parameters.lean ====
section
/-! DEFINITION. The parameters of the block (00_scope.md R7) to which the source gives a value or the spec a default. -/

namespace Sys2Proof

/-- `DATA_CMD_BASE`. PRESUMED (log 13): the spec's default, from general knowledge (D4, G1). Unsafe. -/
def Config.dataCmdBase : Byte := 0x40#8

/-- `AUTO_INC_FLAG`: "flag value 0", stated by the source (R7). -/
def Config.autoIncFlag : Byte := 0x00#8

/-- `FIXED_ADDR_FLAG`. PRESUMED (log 13): the spec's default, from general knowledge (D4, G1). Unsafe. -/
def Config.fixedAddrFlag : Byte := 0x04#8

/-- `DISP_CTRL_BASE`. DEDUCED (log 14) from the source's two worked values (41_command_encoder.md R92). Unsafe. -/
def Config.dispCtrlBase : Byte := 0x80#8

/-- `DISP_ON_FLAG`. DEDUCED (log 14; R92). Unsafe. -/
def Config.dispOnFlag : Byte := 0x08#8

/-- `DISP_OFF_FLAG`. DEDUCED (log 14; R92). Unsafe. -/
def Config.dispOffFlag : Byte := 0x00#8

/-- `ADDR_CMD_BASE`. PRESUMED (log 13): the spec's default, from general knowledge (D4, G2). Unsafe. -/
def Config.addrCmdBase : Byte := 0xC0#8

/-- `INIT_BRIGHTNESS`: the field value of the "14/16 level". PRESUMED (log 15): the spec's default (D6, G4). Unsafe. -/
def Config.initBrightness : Brightness := 7#3

/-- `DIGIT_TABLE[0..9]` (43_pattern_table.md R131). Entry 7 is stated by the source; the other nine are PRESUMED (log 16):
the spec's defaults, from general knowledge (D7, G5). Unsafe. -/
def Config.digitTable : Vector Byte 10 :=
  #v[0x3F#8, 0x06#8, 0x5B#8, 0x4F#8, 0x66#8, 0x6D#8, 0x7D#8, 0x07#8, 0x7F#8, 0x6F#8]

/-- `HEX_LETTER_TABLE[0..5]` (R132). PRESUMED (log 16): the spec's defaults, from general knowledge (D7, G6). Unsafe. -/
def Config.hexLetterTable : Vector Byte 6 :=
  #v[0x77#8, 0x7C#8, 0x39#8, 0x5E#8, 0x79#8, 0x71#8]

/-- The bit of a segment in a mask (10_state.md R12: bit 0 = A, alphabetical, bit 7 = decimal point).
DEDUCED (log 17; D10): the source states bits 0 and 7 only. Unsafe. -/
def Config.segmentBit : Segment → Nat
  | .a => 0
  | .b => 1
  | .c => 2
  | .d => 3
  | .e => 4
  | .f => 5
  | .g => 6
  | .decimalPoint => 7

/-- The mask that lights exactly the listed segments. -/
def Config.segmentMask (l : List Segment) : Byte :=
  l.foldl (fun m x => m ||| (1#8 <<< Config.segmentBit x)) 0#8

/-- `DASH_PATTERN`: "segment G only" (43_pattern_table.md R134). -/
def Config.dashPattern : Byte := Config.segmentMask [.g]

/-- `UNDERSCORE_PATTERN`: "segment D only" (R134). -/
def Config.underscorePattern : Byte := Config.segmentMask [.d]

/-- `BLANK`: the glyph of anything else (R134). -/
def Config.blank : Byte := 0x00#8

/-- `ALL_ON`: the test pattern, `0xFF` whatever the display polarity (42_driver_api.md R112). -/
def Config.allOn : Byte := 0xFF#8

/-- `CHAR_CODE` is ASCII: the codes of '0', 'A', 'a', '-' and '_' (R137). PRESUMED (log 16; D9, G7). Unsafe. -/
def Config.codeDigit0 : Nat := 0x30
@[inherit_doc Config.codeDigit0] def Config.codeUpperA : Nat := 0x41
@[inherit_doc Config.codeDigit0] def Config.codeLowerA : Nat := 0x61
@[inherit_doc Config.codeDigit0] def Config.codeDash : Nat := 0x2D
@[inherit_doc Config.codeDigit0] def Config.codeUnderscore : Nat := 0x5F

end Sys2Proof
end

