-- ==== Sys2Proof/Machine/Operands.lean ====
section
/-! DEFINITION. The operand forms (44_operation_laws.md R124) and the arithmetic of operands (R121): every way in which an
operation forms the index of a cell or of a table entry from its operands. -/

namespace Sys2Proof.Machine

/-- Direct: "the operand `address`", guarded by `address < 16`; none names no cell, the silent outcome (R124). -/
def gridAddr? (b : Byte) : Option GridAddr :=
  if h : b.toNat < 16 then some ⟨b.toNat, h⟩ else none

/-- Run: "`n <- min(length, 16 - start)`", on natural numbers, without wrap-around (42_driver_api.md R105). -/
def runCount (start : GridAddr) (length : Byte) : Nat := min length.toNat (16 - start.val)

/-- The low 3 bits of a byte, `v & 0x7` (R121). -/
def lowThree (v : Byte) : Brightness := (v &&& 0x7#8).setWidth 3

/-- The masked bits of a byte set: `x | m` (R121). -/
def setMasked (x m : Byte) : Byte := x ||| m

/-- The masked bits of a byte cleared: `x & ~m`, complement within 8 bits (R121). -/
def clearMasked (x m : Byte) : Byte := x &&& ~~~m

/-- Table, `digitPattern(d)`: "values above 9 are clamped to 9" (43_pattern_table.md R135). -/
def digitGlyph (d : Byte) : Byte :=
  if h : d.toNat ≤ 9 then Config.digitTable[d.toNat] else Config.digitTable[9]

/-- Table, `hexPattern(h)`: "0–9 via digit table, 10–15 via a 6-entry hex-letter table (A–F); values above 15 return
blank" (R136). -/
def hexGlyph (h : Byte) : Byte :=
  if h9 : h.toNat ≤ 9 then Config.digitTable[h.toNat]
  else if h15 : h.toNat ≤ 15 then Config.hexLetterTable[h.toNat - 10]
  else Config.blank

/-- Table, `charPattern(c)` (R137): digits, then upper-case and lower-case letters from one table of 26 entries, then the
two signs; "anything else → blank". -/
def charGlyph (c : Byte) : Byte :=
  if hd : Config.codeDigit0 ≤ c.toNat ∧ c.toNat ≤ Config.codeDigit0 + 9 then
    Config.digitTable[c.toNat - Config.codeDigit0]
  else if hu : Config.codeUpperA ≤ c.toNat ∧ c.toNat ≤ Config.codeUpperA + 25 then
    Config.letterTable ⟨c.toNat - Config.codeUpperA, by omega⟩
  else if hl : Config.codeLowerA ≤ c.toNat ∧ c.toNat ≤ Config.codeLowerA + 25 then
    Config.letterTable ⟨c.toNat - Config.codeLowerA, by omega⟩
  else if c.toNat = Config.codeDash then Config.dashPattern
  else if c.toNat = Config.codeUnderscore then Config.underscorePattern
  else Config.blank

end Sys2Proof.Machine
end

