-- ==== Sys2Proof/Machine/Ops.lean ====
section
/-! DEFINITION. The shared operations: updates of the state, events, the bus sequences (40_bus_protocol.md), the encoder
functions (41_command_encoder.md), and what the driver operations have in common (42_driver_api.md).

TAKING AN EXCEPTION and RETURNING FROM ONE: there is none to write. "There is no trap mechanism: nothing is saved, no mode
or mask changes, no vector table or handler address exists" (60_exceptions.md R145); "there is no return-from-trap
operation" (R146). -/

namespace Sys2Proof.Machine

/-! ### Updates of the state -/

/-- Set the buffer. -/
def State.setBuf (s : State) (m : Memory) : State := { s with buf := m }

/-- `EN <- v`. -/
def State.setEn (s : State) (v : Bool) : State := { s with en := v }

/-- `BRT <- v`. -/
def State.setBrt (s : State) (v : Brightness) : State := { s with brt := v }

/-- `LIFE <- v`. -/
def State.setLife (s : State) (v : Life) : State := { s with life := v }

/-- `result <- v` (00_scope.md R8): the byte that an operation returns to the host. -/
def State.returnByte (s : State) (v : Byte) : State := { s with result := v }

/-- An operation that returns nothing leaves `RESULT` unspecified (30_encoding.md R60, U15): a free value (log 7). -/
def State.returnNothing (s : State) : State := { s with result := Config.freeResult s.draws, draws := s.draws + 1 }

/-- The byte that an encoder function performed on its own returns to its caller (log 4). -/
def State.setEncRet (s : State) (v : Byte) : State := { s with encRet := v }

/-- Set what is presented to the next steps. -/
def State.setPort (s : State) (p : Port) : State := { s with port := p }

/-- `emit(e)` for each event in order (40_bus_protocol.md R70): appended to `TRACE`, latches updated, and the observer of
the lines. -/
def State.emits (s : State) (es : List Event) : State :=
  { s with wire := es.foldl Wire.step s.wire, trace := s.trace ++ es }

/-! ### Event sequences of the bus primitives -/

/-- `start()` (R73). -/
def startEvents : List Event := [.dat true, .clk true, .dly, .dat false, .dly, .clk false, .dly]

/-- `stop()` (R74). -/
def stopEvents : List Event := [.clk false, .dat false, .dly, .clk true, .dly, .dat true, .dly]

/-- A bit cell carrying `v` (30_encoding.md R50). -/
def cellEvents (v : Bool) : List Event := [.clk false, .dly, .dat v, .dly, .clk true, .dly]

/-- `n` iterations of `writeByte`'s loop with the transient byte `x` (R75): a cell for `x[0]`, then `x <- x >> 1`. -/
def shiftCells : Nat → Byte → List Event
  | 0, _ => []
  | n + 1, x => cellEvents (x.getLsbD 0) ++ shiftCells n (x >>> 1)

/-- `writeByte(b)`: "exactly 8 iterations, least-significant bit first" (R75). -/
def byteEvents (b : Byte) : List Event := shiftCells 8 b

/-- A frame: START, the bytes, STOP (30_encoding.md R52). -/
def frameEvents (bytes : List Byte) : List Event := startEvents ++ bytes.flatMap byteEvents ++ stopEvents

/-! ### Encoder functions: pure (41_command_encoder.md R90) -/

/-- `buildDataCommand(addressing)` (R91). -/
def buildDataCommand (addressing : Addressing) : Byte :=
  match addressing with
  | .fixed => Config.dataCmdBase ||| Config.fixedAddrFlag
  | .autoIncrement => Config.dataCmdBase ||| Config.autoIncFlag

/-- `buildDisplayControl(enabled, brightness)` (R92). -/
def buildDisplayControl (enabled : Bool) (brightness : Byte) : Byte :=
  if enabled then Config.dispCtrlBase ||| Config.dispOnFlag ||| (brightness &&& 0x7#8)
  else Config.dispCtrlBase ||| Config.dispOffFlag

/-- `buildAddress(addr)` (R93), for the 16 values the callers pass. -/
def buildAddress (a : GridAddr) : Byte := Config.addrCmdBase ||| BitVec.ofNat 8 a.val

/-- The byte of a `Command` (10_state.md R22): "the type of the encoder functions' arguments". -/
def Command.byte : Command → Byte
  | .dataCommand addressing => buildDataCommand addressing
  | .displayControl enabled brightness => buildDisplayControl enabled brightness
  | .address value => buildAddress value

/-! ### Bus primitives -/

/-- `start()` (R73). -/
def State.busStart (s : State) : State := s.emits startEvents

/-- `stop()` (R74). -/
def State.busStop (s : State) : State := s.emits stopEvents

/-- `writeByte(b)` (R75). -/
def State.busWriteByte (s : State) (b : Byte) : State := s.emits (byteEvents b)

/-- `sendCommand(b)` = "`start(); writeByte(b); stop()`" (R76). -/
def State.sendCommand (s : State) (b : Byte) : State := (s.busStart.busWriteByte b).busStop

/-- `writeAddress(a)` = "`writeByte(buildAddress(a))`" (R77). -/
def State.writeAddress (s : State) (a : GridAddr) : State := s.busWriteByte (buildAddress a)

/-- `writeBlock(a, bytes)` (R78): START, the address, each byte in order, STOP. -/
def State.writeBlock (s : State) (a : GridAddr) (bytes : List Byte) : State :=
  (bytes.foldl State.busWriteByte (s.busStart.writeAddress a)).busStop

/-- `releaseLines()` (R79). -/
def State.releaseLines (s : State) : State := s.emits [.rel]

/-! ### What the driver operations share -/

/-- The admission of a host operation that needs `LIFE = ACTIVE` (42_driver_api.md R100): "made once per host operation,
before anything else"; otherwise the spec gives it no meaning (log 19). -/
def State.whenActive (s : State) (k : Host.Outcome State Fault Refusal) : Host.Outcome State Fault Refusal :=
  if s.life = .active then k else .refused (.notActive s.life)

/-- "`for i = 0..15: BUF[i] <- v`" (R101, R103, R112). -/
def State.fillBuffer (s : State) (v : Byte) : State := s.setBuf (s.buf.fill v)

/-- "`sendCommand(buildDataCommand(AutoIncrement))`; `writeBlock(a, bytes)`" (R101, R103, R105, R109, R112). -/
def State.sendRun (s : State) (a : GridAddr) (bytes : List Byte) : State :=
  (s.sendCommand (buildDataCommand .autoIncrement)).writeBlock a bytes

/-- "`sendCommand(buildDisplayControl(EN, BRT))`" (R101, R102, R110, R111). -/
def State.sendDisplayControl (s : State) : State := s.sendCommand (buildDisplayControl s.en (s.brt.setWidth 8))

end Sys2Proof.Machine
end

