-- ==== Sys2Proof/Machine/Bus.lean ====
section
/-! DEFINITION. The bus primitives (40_bus_protocol.md), performed on their own. In the block they are "performed only as
parts of the host operations": no request selects them (30_encoding.md R62), and these meanings are the same shared
operations that the host operations call (log 4). "No primitive writes `BUF`, `EN`, `BRT` or `LIFE`". -/

namespace Sys2Proof.Machine

/-- delay, `delay()` (R71). -/
def execDelay (s : State) : Host.Outcome State Fault Refusal := .next (s.emits [.dly])

/-- driveClock, `driveClock(v)` (R72). -/
def execDriveClock (v : Bool) (s : State) : Host.Outcome State Fault Refusal := .next (s.emits [.clk v])

/-- driveData, `driveData(v)` (R72). -/
def execDriveData (v : Bool) (s : State) : Host.Outcome State Fault Refusal := .next (s.emits [.dat v])

/-- start, `start()` (R73). -/
def execStart (s : State) : Host.Outcome State Fault Refusal := .next s.busStart

/-- stop, `stop()` (R74). -/
def execStop (s : State) : Host.Outcome State Fault Refusal := .next s.busStop

/-- writeByte, `writeByte(b)` (R75). -/
def execWriteByte (b : Byte) (s : State) : Host.Outcome State Fault Refusal := .next (s.busWriteByte b)

/-- sendCommand, `sendCommand(b)` (R76). -/
def execSendCommand (b : Byte) (s : State) : Host.Outcome State Fault Refusal := .next (s.sendCommand b)

/-- writeAddress, `writeAddress(a)` (R77). -/
def execWriteAddress (a : GridAddr) (s : State) : Host.Outcome State Fault Refusal := .next (s.writeAddress a)

/-- writeBlock, `writeBlock(a, bytes)` (R78); outside its operand range "`0 <= n <= 16 - a`" the spec gives it no meaning
(log 20). -/
def execWriteBlock (a : GridAddr) (bytes : List Byte) (s : State) : Host.Outcome State Fault Refusal :=
  if a.val + bytes.length ≤ 16 then .next (s.writeBlock a bytes) else .refused .blockTooLong

/-- releaseLines, `releaseLines()` (R79). -/
def execReleaseLines (s : State) : Host.Outcome State Fault Refusal := .next s.releaseLines

end Sys2Proof.Machine
end

