-- ==== Sys2Proof/Machine/Command.lean ====
section
/-! DEFINITION. The wire command bytes (30_encoding.md R53 to R57), performed on their own: the byte is built by its encoder
function and travels in a frame of its own, a command frame (40_bus_protocol.md R76) or, for an address command, the data
frame of no data byte (R78 with n = 0; R52). The observer obeys it at the STOP (20_memory.md R46). The host
cannot request one (30_encoding.md R62): on its own it comes from the model's test bench only (DESIGN CHOICE, log 3; safe).
No admission is tested: R100's is for host operations. -/

namespace Sys2Proof.Machine

/-- DATA_AUTO: `buildDataCommand(AutoIncrement)` in a command frame (R91). -/
def execDataAuto (s : State) : Host.Outcome State Fault Refusal :=
  .next (s.sendCommand (buildDataCommand .autoIncrement))

/-- DATA_FIXED: `buildDataCommand(Fixed)` in a command frame (R91). -/
def execDataFixed (s : State) : Host.Outcome State Fault Refusal :=
  .next (s.sendCommand (buildDataCommand .fixed))

/-- DISP_OFF: `buildDisplayControl(false, any)` in a command frame (R92). -/
def execDispOff (s : State) : Host.Outcome State Fault Refusal :=
  .next (s.sendCommand (buildDisplayControl false 0x00#8))

/-- DISP_ON: `buildDisplayControl(true, l)` in a command frame (R92). -/
def execDispOn (l : Brightness) (s : State) : Host.Outcome State Fault Refusal :=
  .next (s.sendCommand (buildDisplayControl true (l.setWidth 8)))

/-- ADDR: `buildAddress(a)` as the first and only byte of a data frame (R93, R78). -/
def execAddr (a : GridAddr) (s : State) : Host.Outcome State Fault Refusal :=
  .next (s.writeBlock a [])

end Sys2Proof.Machine
end

