-- ==== Sys2Proof/Machine/Driver.lean ====
section
/-! DEFINITION. The driver operations (42_driver_api.md) and the reserved operation select code. In each, the order is the
pseudocode's: the admission test, the range test, the buffer, then the frames (60_exceptions.md R144, 20_memory.md R38). -/

namespace Sys2Proof.Machine

/-- INIT, `init()` (R101): admitted whatever `LIFE` is (R100). -/
def execInit (s : State) : Host.Outcome State Fault Refusal :=
  .next (((((((s.fillBuffer 0x00#8).sendRun 0 (List.replicate 16 0x00#8)).setEn true).setBrt
    Config.initBrightness).sendDisplayControl).setLife .active).returnNothing)

/-- DEINIT, `deinit()` (R102). -/
def execDeinit (s : State) : Host.Outcome State Fault Refusal :=
  s.whenActive (.next ((((s.setEn false).sendDisplayControl).releaseLines).setLife .released).returnNothing)

/-- SETBRT, `setBrightness(level)` (R110): "`BRT <- level & 0x7`". -/
def execSetbrt (level : Byte) (s : State) : Host.Outcome State Fault Refusal :=
  s.whenActive (.next ((s.setBrt (lowThree level)).sendDisplayControl).returnNothing)

/-- SETON, `setDisplayOn(on)` (R111). -/
def execSeton (on : Bool) (s : State) : Host.Outcome State Fault Refusal :=
  s.whenActive (.next ((s.setEn on).sendDisplayControl).returnNothing)

/-- CLEAR, `clear()` (R103). -/
def execClear (s : State) : Host.Outcome State Fault Refusal :=
  s.whenActive (.next ((s.fillBuffer 0x00#8).sendRun 0 (List.replicate 16 0x00#8)).returnNothing)

/-- WRGRID, `writeGrid(address, data)` (R104): a no-op when `address >= 16`. -/
def execWrgrid (address data : Byte) (s : State) : Host.Outcome State Fault Refusal :=
  s.whenActive <|
    match gridAddr? address with
    | none => .next s.returnNothing
    | some a =>
      .next (((s.setBuf (s.buf.write a data)).sendCommand (buildDataCommand .fixed)).writeBlock a [data]).returnNothing

/-- WRARR, `writeGridArray(start, data, length)` (R105): a no-op when `start >= 16`; otherwise the clamped count of bytes,
and "`if |data| < n: refuse`". -/
def execWrarr (start length : Byte) (data : List Byte) (s : State) : Host.Outcome State Fault Refusal :=
  s.whenActive <|
    match gridAddr? start with
    | none => .next s.returnNothing
    | some a =>
      if data.length < runCount a length then .refused .payloadTooShort
      else
        .next ((s.setBuf (s.buf.writeRun a.val (data.take (runCount a length)))).sendRun a
          (data.take (runCount a length))).returnNothing

/-- GETBUF, `getBuffer(address)` (R106): `0x00` when `address >= 16`. -/
def execGetbuf (address : Byte) (s : State) : Host.Outcome State Fault Refusal :=
  s.whenActive <|
    match gridAddr? address with
    | none => .next (s.returnByte 0x00#8)
    | some a => .next (s.returnByte (s.buf.read a))

/-- SETBUF, `setBuffer(address, data)` (R107): a no-op when `address >= 16`; no event. -/
def execSetbuf (address data : Byte) (s : State) : Host.Outcome State Fault Refusal :=
  s.whenActive <|
    match gridAddr? address with
    | none => .next s.returnNothing
    | some a => .next (s.setBuf (s.buf.write a data)).returnNothing

/-- SETBIT, `setBufferBit(address, mask, set)` (R108): a no-op when `address >= 16`; no event. -/
def execSetbit (address mask : Byte) (set : Bool) (s : State) : Host.Outcome State Fault Refusal :=
  s.whenActive <|
    match gridAddr? address with
    | none => .next s.returnNothing
    | some a =>
      if set then .next (s.setBuf (s.buf.write a (setMasked (s.buf.read a) mask))).returnNothing
      else .next (s.setBuf (s.buf.write a (clearMasked (s.buf.read a) mask))).returnNothing

/-- FLUSH, `flush()` (R109): all 16 bytes of the buffer. -/
def execFlush (s : State) : Host.Outcome State Fault Refusal :=
  s.whenActive (.next (s.sendRun 0 s.buf.bytes).returnNothing)

/-- TEST, `test()` (R112): the whole buffer to `0xFF`. -/
def execTest (s : State) : Host.Outcome State Fault Refusal :=
  s.whenActive (.next ((s.fillBuffer Config.allOn).sendRun 0 (List.replicate 16 Config.allOn)).returnNothing)

/-- RESERVED_15: "`OP_SEL = 15` is reserved; the spec gives it no meaning and a model `refuse`s it" (30_encoding.md R63). -/
def execReserved15 (_s : State) : Host.Outcome State Fault Refusal := .refused .reservedOpSel

end Sys2Proof.Machine
end

