-- ==== Sys2Proof/Machine/Encoder.lean ====
section
/-! DEFINITION. The encoder functions (41_command_encoder.md), performed on their own: "each returns one byte that depends on
its arguments and the parameters alone; none reads or writes `BUF`, `EN`, `BRT`, the lines or the trace" (R90). The byte
returned to the caller stands in the model's own field `encRet` (log 4). -/

namespace Sys2Proof.Machine

/-- buildDataCommand, `buildDataCommand(addressing)` (R91). -/
def execBuildDataCommand (addressing : Addressing) (s : State) : Host.Outcome State Fault Refusal :=
  .next (s.setEncRet (buildDataCommand addressing))

/-- buildDisplayControl, `buildDisplayControl(enabled, brightness)` (R92). -/
def execBuildDisplayControl (enabled : Bool) (brightness : Byte) (s : State) : Host.Outcome State Fault Refusal :=
  .next (s.setEncRet (buildDisplayControl enabled brightness))

/-- buildAddress, `buildAddress(addr)` (R93). -/
def execBuildAddress (a : GridAddr) (s : State) : Host.Outcome State Fault Refusal :=
  .next (s.setEncRet (buildAddress a))

end Sys2Proof.Machine
end

