-- ==== Sys2Proof/Machine/Pattern.lean ====
section
/-! DEFINITION. The pattern lookups (43_pattern_table.md R130): they "read no state of the block, write none, emit no event,
and are admitted in every value of `LIFE`"; the result goes to the host. -/

namespace Sys2Proof.Machine

/-- DIGIT, `digitPattern(d)` (R135). -/
def execDigit (d : Byte) (s : State) : Host.Outcome State Fault Refusal := .next (s.returnByte (digitGlyph d))

/-- HEX, `hexPattern(h)` (R136). -/
def execHex (h : Byte) (s : State) : Host.Outcome State Fault Refusal := .next (s.returnByte (hexGlyph h))

/-- CHAR, `charPattern(c)` (R137). -/
def execChar (c : Byte) (s : State) : Host.Outcome State Fault Refusal := .next (s.returnByte (charGlyph c))

end Sys2Proof.Machine
end

