-- ==== Sys2Proof/Machine/Dispatch.lean ====
section
/-! DEFINITION. The meaning of every instruction: one arm per constructor of `Instr`. -/

namespace Sys2Proof.Machine

def exec (i : Instr) (s : State) : Host.Outcome State Fault Refusal :=
  match i with
  -- wire command bytes (30_encoding.md R53)
  | .dataAuto => Sys2Proof.Machine.execDataAuto s
  | .dataFixed => Sys2Proof.Machine.execDataFixed s
  | .dispOff => Sys2Proof.Machine.execDispOff s
  | .dispOn l => Sys2Proof.Machine.execDispOn l s
  | .addr a => Sys2Proof.Machine.execAddr a s
  -- host operations (30_encoding.md R61)
  | .init => Sys2Proof.Machine.execInit s
  | .deinit => Sys2Proof.Machine.execDeinit s
  | .setbrt level => Sys2Proof.Machine.execSetbrt level s
  | .seton on => Sys2Proof.Machine.execSeton on s
  | .clear => Sys2Proof.Machine.execClear s
  | .wrgrid address data => Sys2Proof.Machine.execWrgrid address data s
  | .wrarr start length data => Sys2Proof.Machine.execWrarr start length data s
  | .getbuf address => Sys2Proof.Machine.execGetbuf address s
  | .setbuf address data => Sys2Proof.Machine.execSetbuf address data s
  | .setbit address mask set => Sys2Proof.Machine.execSetbit address mask set s
  | .flush => Sys2Proof.Machine.execFlush s
  | .digit d => Sys2Proof.Machine.execDigit d s
  | .hex h => Sys2Proof.Machine.execHex h s
  | .char c => Sys2Proof.Machine.execChar c s
  | .test => Sys2Proof.Machine.execTest s
  | .reserved15 => Sys2Proof.Machine.execReserved15 s
  -- internal operations (30_encoding.md R62)
  | .delay => Sys2Proof.Machine.execDelay s
  | .driveClock v => Sys2Proof.Machine.execDriveClock v s
  | .driveData v => Sys2Proof.Machine.execDriveData v s
  | .start => Sys2Proof.Machine.execStart s
  | .stop => Sys2Proof.Machine.execStop s
  | .writeByte b => Sys2Proof.Machine.execWriteByte b s
  | .sendCommand b => Sys2Proof.Machine.execSendCommand b s
  | .writeAddress a => Sys2Proof.Machine.execWriteAddress a s
  | .writeBlock a bytes => Sys2Proof.Machine.execWriteBlock a bytes s
  | .releaseLines => Sys2Proof.Machine.execReleaseLines s
  | .buildDataCommand addressing => Sys2Proof.Machine.execBuildDataCommand addressing s
  | .buildDisplayControl enabled brightness => Sys2Proof.Machine.execBuildDisplayControl enabled brightness s
  | .buildAddress a => Sys2Proof.Machine.execBuildAddress a s

end Sys2Proof.Machine
end

