-- ==== Sys2Proof/Machine/Fetch.lean ====
section
/-! DEFINITION. What stands in the place of a fetch: "The block has no program counter. It fetches nothing: the host
presents one operation at a time" (10_state.md R17). The next word is the oldest request that the host presents, unless
the test bench holds a wire command byte (log 3). -/

namespace Sys2Proof.Machine

/-- Take the byte of the test bench. -/
def State.clearBench (s : State) : State := s.setPort { s.port with bench := none }

/-- The word of the next step and the state in which it has been taken, none when nothing is presented. -/
def State.takeWord (s : State) : Option (TableWord × State) :=
  match s.port.bench with
  | some b => some (.wire b, s.clearBench)
  | none =>
    match s.port.host with
    | [] => none
    | r :: rest => some (.host r, s.setPort { s.port with host := rest })

/-- The step of a machine to which nothing is presented: the engine waits for the host and does nothing (log 1). -/
def State.idle (s : State) : Host.Outcome State Fault Refusal := .next s

/-- The step on a word that the decoder refuses: only a byte that is no command byte (30_encoding.md R63). Every host
request decodes, so its arm is never taken. -/
def refuseWord : TableWord → Host.Outcome State Fault Refusal
  | .wire b => .refused (.notACommandByte b)
  | .host _ => .refused .reservedOpSel

/-- `s` with a word placed so that the next step takes it: a host request before those already presented and with nothing
on the test bench, a wire command byte on the test bench. -/
def State.place (s : State) : TableWord → State
  | .host r => s.setPort { host := r :: s.port.host, bench := none }
  | .wire b => s.setPort { s.port with bench := some b }

end Sys2Proof.Machine
end

