-- ==== Sys2Proof/Machine/Step.lean ====
section
/-! DEFINITION. One step: one presented operation, performed from its first line to its last (42_driver_api.md R100,
"Atomicity"; 10_state.md R17). -/

namespace Sys2Proof.Machine

/-- Take the word presented, decode it, perform it. -/
def step (s : State) : Host.Outcome State Fault Refusal :=
  match s.takeWord with
  | none => s.idle
  | some (w, s') =>
    match decode w with
    | some i => exec i s'
    | none => refuseWord w

/-- `s` with a word of the opcode table placed for the next step (log 2): the host presents a request, the test bench holds
a wire command byte (log 3). Bits that are no word of the table change nothing. -/
def State.withFetchWord (s : State) (nbits w : Nat) : State :=
  match tableWord? nbits w with
  | some word => s.place word
  | none => s

end Sys2Proof.Machine
end

