-- ==== Sys2Proof/Safety.lean ====
section
/-! DEFINITION. The terms in which statements speak: what two states have in common, what an operation sends, and the
invariant of the machine. -/

namespace Sys2Proof.Machine

/-- Every byte of the buffer space reads as before. -/
def State.KeepsBuffer (s t : State) : Prop := ∀ a : GridAddr, t.buf.read a = s.buf.read a

/-- Every byte of the buffer space but the cells of `cells` reads as before. -/
def State.KeepsBufferOutside (s t : State) (cells : GridAddr → Prop) : Prop :=
  ∀ a : GridAddr, ¬ cells a → t.buf.read a = s.buf.read a

/-- The display state `EN`, `BRT` and the life-cycle state are as before. -/
def State.KeepsControl (s t : State) : Prop := t.en = s.en ∧ t.brt = s.brt ∧ t.life = s.life

/-- The lines, the trace and the observer are as before: no event. -/
def State.Silent (s t : State) : Prop := t.trace = s.trace ∧ t.wire = s.wire

/-- Exactly the events `es` were emitted, in order: appended to `TRACE`, with the latches and the observer after them. -/
def State.Emits (s t : State) (es : List Event) : Prop :=
  t.trace = s.trace ++ es ∧ t.wire = es.foldl Wire.step s.wire

/-- What is presented, `RESULT` with its counter, and the encoder's return byte are as before. -/
def State.KeepsHostSide (s t : State) : Prop :=
  t.result = s.result ∧ t.draws = s.draws ∧ t.encRet = s.encRet ∧ t.port = s.port

/-- What a host operation that returns nothing does to the host side: `RESULT` is unspecified, nothing is presented or
taken, and no encoder byte is written. -/
def State.ReturnsNothing (s t : State) : Prop := t.encRet = s.encRet ∧ t.port = s.port

/-- What a host operation that returns the byte `v` does to the host side. -/
def State.Returns (s t : State) (v : Byte) : Prop := t.result = v ∧ t.encRet = s.encRet ∧ t.port = s.port

/-- The idle bus: "both lines at logical 1" (40_bus_protocol.md R80). -/
def State.BusIdle (s : State) : Prop := s.clk = .high ∧ s.dat = .high

/-- The invariant of the machine. The memories have their canonical form; no frame is open between steps; the bus is idle
while `LIFE = ACTIVE` (10_state.md R24 b); the latches and the observer are what the trace makes them (40_bus_protocol.md
R70); and the observer is the function of `frames(TRACE)` that 20_memory.md R44 says it is. -/
abbrev MachineInvariant (s : State) : Prop :=
  s.buf.wf = true ∧ s.dev.mem.wf = true ∧ s.wire.rx = none ∧
  (s.life = .active → s.clk = .high ∧ s.dat = .high) ∧
  s.wire = s.trace.foldl Wire.step Wire.reset ∧
  s.dev = observe Device.powerOn (frames s.trace)

/-- A host operation that is admitted only when `LIFE = ACTIVE`: every one but `init()`, the three pattern lookups and the
reserved code (42_driver_api.md R100). -/
def needsActive : Instr → Bool
  | .dataAuto => false
  | .dataFixed => false
  | .dispOff => false
  | .dispOn _ => false
  | .addr _ => false
  | .init => false
  | .deinit => true
  | .setbrt _ => true
  | .seton _ => true
  | .clear => true
  | .wrgrid _ _ => true
  | .wrarr _ _ _ => true
  | .getbuf _ => true
  | .setbuf _ _ => true
  | .setbit _ _ _ => true
  | .flush => true
  | .digit _ => false
  | .hex _ => false
  | .char _ => false
  | .test => true
  | .reserved15 => false
  | .delay => false
  | .driveClock _ => false
  | .driveData _ => false
  | .start => false
  | .stop => false
  | .writeByte _ => false
  | .sendCommand _ => false
  | .writeAddress _ => false
  | .writeBlock _ _ => false
  | .releaseLines => false
  | .buildDataCommand _ => false
  | .buildDisplayControl _ _ => false
  | .buildAddress _ => false

/-- An operation in the "written by" column of `BUF` (10_state.md R10). -/
def writesBuffer : Instr → Bool
  | .dataAuto => false
  | .dataFixed => false
  | .dispOff => false
  | .dispOn _ => false
  | .addr _ => false
  | .init => true
  | .deinit => false
  | .setbrt _ => false
  | .seton _ => false
  | .clear => true
  | .wrgrid _ _ => true
  | .wrarr _ _ _ => true
  | .getbuf _ => false
  | .setbuf _ _ => true
  | .setbit _ _ _ => true
  | .flush => false
  | .digit _ => false
  | .hex _ => false
  | .char _ => false
  | .test => true
  | .reserved15 => false
  | .delay => false
  | .driveClock _ => false
  | .driveData _ => false
  | .start => false
  | .stop => false
  | .writeByte _ => false
  | .sendCommand _ => false
  | .writeAddress _ => false
  | .writeBlock _ _ => false
  | .releaseLines => false
  | .buildDataCommand _ => false
  | .buildDisplayControl _ _ => false
  | .buildAddress _ => false

/-- An operation in the "written by" column of `EN` (R10). -/
def writesEnable : Instr → Bool
  | .dataAuto => false
  | .dataFixed => false
  | .dispOff => false
  | .dispOn _ => false
  | .addr _ => false
  | .init => true
  | .deinit => true
  | .setbrt _ => false
  | .seton _ => true
  | .clear => false
  | .wrgrid _ _ => false
  | .wrarr _ _ _ => false
  | .getbuf _ => false
  | .setbuf _ _ => false
  | .setbit _ _ _ => false
  | .flush => false
  | .digit _ => false
  | .hex _ => false
  | .char _ => false
  | .test => false
  | .reserved15 => false
  | .delay => false
  | .driveClock _ => false
  | .driveData _ => false
  | .start => false
  | .stop => false
  | .writeByte _ => false
  | .sendCommand _ => false
  | .writeAddress _ => false
  | .writeBlock _ _ => false
  | .releaseLines => false
  | .buildDataCommand _ => false
  | .buildDisplayControl _ _ => false
  | .buildAddress _ => false

/-- An operation in the "written by" column of `BRT` (R10). -/
def writesBrightness : Instr → Bool
  | .dataAuto => false
  | .dataFixed => false
  | .dispOff => false
  | .dispOn _ => false
  | .addr _ => false
  | .init => true
  | .deinit => false
  | .setbrt _ => true
  | .seton _ => false
  | .clear => false
  | .wrgrid _ _ => false
  | .wrarr _ _ _ => false
  | .getbuf _ => false
  | .setbuf _ _ => false
  | .setbit _ _ _ => false
  | .flush => false
  | .digit _ => false
  | .hex _ => false
  | .char _ => false
  | .test => false
  | .reserved15 => false
  | .delay => false
  | .driveClock _ => false
  | .driveData _ => false
  | .start => false
  | .stop => false
  | .writeByte _ => false
  | .sendCommand _ => false
  | .writeAddress _ => false
  | .writeBlock _ _ => false
  | .releaseLines => false
  | .buildDataCommand _ => false
  | .buildDisplayControl _ _ => false
  | .buildAddress _ => false

/-- One of "the 15 host operations" (30_encoding.md R62): the rows of R61 but the reserved code. -/
def isHostOperation (i : Instr) : Bool :=
  match encode i with
  | some (.host _) => i != .reserved15
  | some (.wire _) => false
  | none => false

/-- The frames that a host operation sends, in order, with the default parameters: the table of 42_driver_api.md R113. -/
def hostFrames (s : State) : Instr → List (List Byte)
  | .dataAuto => []
  | .dataFixed => []
  | .dispOff => []
  | .dispOn _ => []
  | .addr _ => []
  | .init => [[0x40#8], 0xC0#8 :: List.replicate 16 0x00#8, [0x8F#8]]
  | .deinit => [[0x80#8]]
  | .setbrt level => [[if s.en then 0x88#8 ||| (level &&& 0x7#8) else 0x80#8]]
  | .seton on => [[if on then 0x88#8 ||| s.brt.setWidth 8 else 0x80#8]]
  | .clear => [[0x40#8], 0xC0#8 :: List.replicate 16 0x00#8]
  | .wrgrid address data => if address.toNat < 16 then [[0x44#8], [0xC0#8 ||| address, data]] else []
  | .wrarr start length data =>
    if start.toNat < 16 then
      [[0x40#8], (0xC0#8 ||| start) :: data.take (min length.toNat (16 - start.toNat))]
    else []
  | .getbuf _ => []
  | .setbuf _ _ => []
  | .setbit _ _ _ => []
  | .flush => [[0x40#8], 0xC0#8 :: s.buf.bytes]
  | .digit _ => []
  | .hex _ => []
  | .char _ => []
  | .test => [[0x40#8], 0xC0#8 :: List.replicate 16 0xFF#8]
  | .reserved15 => []
  | .delay => []
  | .driveClock _ => []
  | .driveData _ => []
  | .start => []
  | .stop => []
  | .writeByte _ => []
  | .sendCommand _ => []
  | .writeAddress _ => []
  | .writeBlock _ _ => []
  | .releaseLines => []
  | .buildDataCommand _ => []
  | .buildDisplayControl _ _ => []
  | .buildAddress _ => []

/-- Two outcomes of the engine that agree on everything but the observer: both go on, or both are the same refusal. -/
def sameButObserver (p : State → State → Prop) :
    Host.Outcome State Fault Refusal → Host.Outcome State Fault Refusal → Prop
  | .next s, .next t => p s t
  | .refused r, .refused r' => r = r'
  | _, _ => False

/-- Two states that agree on everything but the observer of the lines: "nothing it does is visible to the engine"
(00_scope.md R5). -/
def State.SameButObserver (s t : State) : Prop :=
  t.buf = s.buf ∧ t.en = s.en ∧ t.brt = s.brt ∧ t.life = s.life ∧ t.clk = s.clk ∧ t.dat = s.dat ∧
  t.trace = s.trace ∧ t.result = s.result ∧ t.draws = s.draws ∧ t.encRet = s.encRet ∧ t.port = s.port

end Sys2Proof.Machine
end

