-- ==== Sys2Proof/Certificates/Slice0/Obligations.lean ====
section
/-! DEFINITION. The statements for the provers. Each says in its docstring which rule of spec/ it formalises. Bytes that
rest on a default parameter (log 13 to 17) are written with the encoder functions or the Config name where the rule does
not need the number. -/

open Sys2Proof Sys2Proof.Machine

/-! ### Encoding -/

/-- Decoding an encoded instruction gives it back, with every operand (30_encoding.md R60, R61, R53). What the encoder
writes in ignored fields is the model's choice (log 24). -/
def Obligations.DecodeOfEncodeIsTheInstruction : Prop :=
  ∀ (i : Instr) (w : TableWord), encode i = some w → decode w = some i

/-- Words written out from the tables of 30_encoding.md R53 and R61 decode to the instructions they stand for (wire bytes:
log 13, 14). -/
def Obligations.WordsDecodeAsTheTablesSay : Prop :=
  decode (.wire 0x40#8) = some .dataAuto ∧ decode (.wire 0x44#8) = some .dataFixed ∧
  decode (.wire 0x80#8) = some .dispOff ∧ decode (.wire 0x8D#8) = some (.dispOn 5#3) ∧
  decode (.wire 0xCA#8) = some (.addr 10) ∧
  decode (.host ⟨0x5035B00#28, []⟩) = some (.wrgrid 0x03#8 0x5B#8) ∧
  decode (.host ⟨0x60A0700#28, [0x01#8]⟩) = some (.wrarr 0x0A#8 0x07#8 [0x01#8]) ∧
  decode (.host ⟨0x9024001#28, []⟩) = some (.setbit 0x02#8 0x40#8 true) ∧
  decode (.host ⟨0xD2D0000#28, []⟩) = some (.char 0x2D#8)

/-- The bytes that decode as a wire command are exactly those that the encoder functions build (R63), with the
default parameters (log 13, 14). -/
def Obligations.CommandBytesAreWhatTheEncoderBuilds : Prop :=
  ∀ b : Byte, isCommandByte b = true ↔ ∃ c : Command, Command.byte c = b

/-! ### The step -/

/-- A step performs the instruction that the oldest request of the host decodes to, on the state in which that request has
been taken (10_state.md R17); with a wire command byte on the test bench it performs that. The request queue and the
test bench are the model's choices (log 1, 3). -/
def Obligations.StepPerformsTheDecodedRequest : Prop :=
  ∀ (s : State) (i : Instr),
    (∀ (r : Request) (rest : List Request), s.port = { host := r :: rest, bench := none } →
      decode (.host r) = some i → step s = exec i (s.setPort { host := rest, bench := none })) ∧
    (∀ (b : Byte), s.port.bench = some b → decode (.wire b) = some i → step s = exec i s.clearBench)

/-- A word of the opcode table, placed, is what the next step performs, on the state as it was (30_encoding.md R60, R61,
R53) but for a byte that the test bench held. That a program is placed from outside is the model's choice (log 2), and so
is the test bench (log 3). -/
def Obligations.TableWordRunsAtTheNextStep : Prop :=
  ∀ (nbits w : Nat) (i : Instr) (s : State), decodeTableWord nbits w = some i →
    step (s.withFetchWord nbits w) = exec i s.clearBench ∧ (s.port.bench = none → s.clearBench = s)

/-- With nothing presented the engine waits, and a byte of the test bench that is no command byte is refused by name: the
model's choices (log 1, 3, 21). -/
def Obligations.StepWithoutAnOperation : Prop :=
  ∀ s : State,
    (s.port = Port.empty → step s = .next s) ∧
    (∀ b : Byte, s.port.bench = some b → isCommandByte b = false → step s = .refused (.notACommandByte b))

/-- "Only the 15 host operations can be requested by the host" (30_encoding.md R62): with nothing on the test bench, which is
how the machine starts and how every step leaves it, a step that goes on performs one of the fifteen, as the host's oldest
request says, or waits because there is none. That it waits then, and the test bench, are the model's choices
(log 1, 3). -/
def Obligations.HostRequestsPerformOnlyHostOperations : Prop :=
  State.reset.port.bench = none ∧
  ∀ s t : State, s.port.bench = none → step s = .next t →
    t.port.bench = none ∧
    ((s.port.host = [] ∧ t = s) ∨
      ∃ (r : Request) (rest : List Request) (i : Instr), s.port.host = r :: rest ∧ decode (.host r) = some i ∧
        isHostOperation i = true ∧ exec i (s.setPort { host := rest, bench := none }) = .next t)

/-- The state after reset: the buffer zero, both lines unknown, `LIFE = UNINIT`, the trace empty (10_state.md R23). -/
def Obligations.ResetIsTheCreatedBlock : Prop :=
  (∀ a : GridAddr, State.reset.buf.read a = 0x00#8) ∧ State.reset.clk = .unknown ∧ State.reset.dat = .unknown ∧
  State.reset.life = .uninit ∧ State.reset.trace = []

/-- The reset state meets the invariant; the observer's start is the model's choice (log 8). -/
def Obligations.ResetMeetsTheInvariant : Prop := MachineInvariant State.reset

/-- Every step keeps the invariant: canonical memories, no frame open between steps, the idle bus while `LIFE = ACTIVE`
(10_state.md R24 b), the latches what the trace makes them (R14), the observer the function of `frames(TRACE)` that
20_memory.md R44 says (log 11, 28), from the start the model chose (log 8). What `frames` gives for a malformed frame, which
no step sends, is the model's choice (log 29). -/
def Obligations.EveryStepKeepsTheMachineInvariant : Prop :=
  ∀ s t : State, MachineInvariant s → step s = .next t → MachineInvariant t

/-! ### The lines and their observer -/

/-- The observer that follows the lines event by event is the observer that receives the sampled bits of each closed frame
of the waveform, in order (20_memory.md R43, R44). What a START inside an open frame and an unknown level do is the model's
choice (log 11). -/
def Obligations.ObserverReceivesTheFramesOfTheWaveform : Prop :=
  ∀ (es : List Event) (w : Wire),
    (es.foldl Wire.step w).dev =
      (segments (w.clk, w.dat) w.rx (waveform (w.clk, w.dat) es)).foldl Device.receive w.dev

/-- The latches after a list of events are the last pair of its waveform (40_bus_protocol.md R70, R81). -/
def Obligations.LatchesAreTheEndOfTheWaveform : Prop :=
  ∀ (es : List Event) (w : Wire),
    ((es.foldl Wire.step w).clk, (es.foldl Wire.step w).dat) =
      (waveform (w.clk, w.dat) es).getLastD (w.clk, w.dat)

/-- A frame of `k` bytes is `14 + 48k` events of which `6 + 24k` are `DLY` (30_encoding.md R52). -/
def Obligations.FrameEventCounts : Prop :=
  ∀ bytes : List Byte,
    (frameEvents bytes).length = 14 + 48 * bytes.length ∧ dlyCount (frameEvents bytes) = 6 + 24 * bytes.length

/-- From the idle bus a frame has exactly one START condition, its fourth event, and exactly one STOP condition, the sixth
event of `stop()`: between them the data line changes only while the clock is low (40_bus_protocol.md R81). -/
def Obligations.FrameHasOneStartAndOneStopCondition : Prop :=
  ∀ bytes : List Byte,
    conditionsAt isStart (.high, .high) 1 (waveform (.high, .high) (frameEvents bytes)) = [4] ∧
    conditionsAt isStop (.high, .high) 1 (waveform (.high, .high) (frameEvents bytes)) = [13 + 48 * bytes.length]

/-- Nothing the device does is visible to the engine: from two states that agree on everything but the observer, every
operation gives outcomes that agree on everything but the observer (60_exceptions.md R147, 00_scope.md R5). -/
def Obligations.DeviceIsInvisibleToTheEngine : Prop :=
  ∀ (i : Instr) (s t : State), s.SameButObserver t →
    sameButObserver State.SameButObserver (exec i s) (exec i t)

/-! ### Rules over all operations -/

/-- Every well-formed operation that is admitted completes: "every admitted operation either performs the whole of its
pseudocode or (silent no-op) none of it" (60_exceptions.md R145); only the reserved code has no meaning (30_encoding.md
R63). That wire command bytes and internal operations run on their own is the model's choice (log 3, 4). -/
def Obligations.AdmittedOperationsComplete : Prop :=
  ∀ (i : Instr) (s : State), wellFormed i = true → i ≠ .reserved15 → (needsActive i = true → s.life = .active) →
    ∃ t, exec i s = .next t

/-- "`LIFE` changes only as this table says; every other operation leaves it alone" (70_reset_and_hazards.md R163); outside
ACTIVE the others are refused (42_driver_api.md R100, a decision of the spec; log 19). -/
def Obligations.LifeChangesOnlyByInitAndDeinit : Prop :=
  State.reset.life = .uninit ∧
  (∀ s t : State, exec .init s = .next t → t.life = .active) ∧
  (∀ s t : State, exec .deinit s = .next t → s.life = .active ∧ t.life = .released) ∧
  (∀ (i : Instr) (s t : State), i ≠ .init → i ≠ .deinit → exec i s = .next t → t.life = s.life) ∧
  (∀ (i : Instr) (s : State), needsActive i = true → s.life ≠ .active → exec i s = .refused (.notActive s.life))

/-- Each control field and the buffer are written only by the operations of their "written by" column, and no operation
touches what is presented to the next steps (10_state.md R10; log 1, 3). -/
def Obligations.StateIsWrittenOnlyByItsOperations : Prop :=
  ∀ (i : Instr) (s t : State), exec i s = .next t →
    (writesBuffer i = false → s.KeepsBuffer t) ∧ (writesEnable i = false → t.en = s.en) ∧
    (writesBrightness i = false → t.brt = s.brt) ∧ t.port = s.port

/-- The trace only grows (10_state.md R24 d), and "every admitted operation is a finite sequence of at most 954 events"
(70_reset_and_hazards.md R175). -/
def Obligations.OperationsAppendAtMost954Events : Prop :=
  ∀ (i : Instr) (s t : State), exec i s = .next t → ∃ es, t.trace = s.trace ++ es ∧ es.length ≤ 954

/-- Cases to which the spec gives no meaning are refused by name: `OP_SEL = 15` (30_encoding.md R63), a payload shorter than
the clamped count (42_driver_api.md R105), a block outside its operand range (40_bus_protocol.md R78); log 20, 21. -/
def Obligations.CasesWithoutMeaningAreRefused : Prop :=
  (∀ s : State, exec .reserved15 s = .refused .reservedOpSel) ∧
  (∀ (start length : Byte) (data : List Byte) (s : State), s.life = .active → start.toNat < 16 →
    data.length < min length.toNat (16 - start.toNat) →
    exec (.wrarr start length data) s = .refused .payloadTooShort) ∧
  (∀ (a : GridAddr) (bytes : List Byte) (s : State), 16 < a.val + bytes.length →
    exec (.writeBlock a bytes) s = .refused .blockTooLong)

/-! ### Bus primitives -/

/-- `delay()`: one `DLY`, no line changes (40_bus_protocol.md R71). -/
def Obligations.DelayEmitsOneDelayEvent : Prop :=
  ∀ s : State, ∃ t, exec .delay s = .next t ∧ t.trace = s.trace ++ [.dly] ∧ t.clk = s.clk ∧ t.dat = s.dat ∧
    s.KeepsBuffer t ∧ s.KeepsControl t ∧ s.KeepsHostSide t

/-- `driveClock(v)` and `driveData(v)`: one event, one latch, the other line left alone (R72). -/
def Obligations.DriveCallsSetOneLatch : Prop :=
  ∀ (v : Bool) (s : State),
    (∃ t, exec (.driveClock v) s = .next t ∧ s.Emits t [.clk v] ∧ t.clk = Level.ofBool v ∧ t.dat = s.dat ∧
      s.KeepsBuffer t ∧ s.KeepsControl t ∧ s.KeepsHostSide t) ∧
    (∃ t, exec (.driveData v) s = .next t ∧ s.Emits t [.dat v] ∧ t.dat = Level.ofBool v ∧ t.clk = s.clk ∧
      s.KeepsBuffer t ∧ s.KeepsControl t ∧ s.KeepsHostSide t)

/-- `start()`: its seven events, both lines low at the end, and its fourth event the one START condition from any levels
(R73). -/
def Obligations.StartDropsDataWhileClockIsHigh : Prop :=
  ∀ s : State, ∃ t es, exec .start s = .next t ∧
    es = [Event.dat true, .clk true, .dly, .dat false, .dly, .clk false, .dly] ∧ s.Emits t es ∧ dlyCount es = 3 ∧
    t.clk = .low ∧ t.dat = .low ∧
    conditionsAt isStart (s.clk, s.dat) 1 (waveform (s.clk, s.dat) es) = [4] ∧
    s.KeepsBuffer t ∧ s.KeepsControl t ∧ s.KeepsHostSide t

/-- `stop()`: its seven events, both lines high at the end, no START condition and its sixth event the one STOP condition
from any levels (R74). -/
def Obligations.StopRaisesDataWhileClockIsHigh : Prop :=
  ∀ s : State, ∃ t es, exec .stop s = .next t ∧
    es = [Event.clk false, .dat false, .dly, .clk true, .dly, .dat true, .dly] ∧ s.Emits t es ∧ dlyCount es = 3 ∧
    t.BusIdle ∧
    conditionsAt isStart (s.clk, s.dat) 1 (waveform (s.clk, s.dat) es) = [] ∧
    conditionsAt isStop (s.clk, s.dat) 1 (waveform (s.clk, s.dat) es) = [6] ∧
    s.KeepsBuffer t ∧ s.KeepsControl t ∧ s.KeepsHostSide t

/-- `writeByte(b)`: "for `i = 0, 1, ..., 7` in order: `CLK(0); DLY; DAT(b[i]); DLY; CLK(1); DLY`" (R75). -/
def Obligations.WriteByteSerialisesLeastSignificantFirst : Prop :=
  ∀ (b : Byte) (s : State), ∃ t es, exec (.writeByte b) s = .next t ∧
    es = (List.range 8).flatMap (fun i => [Event.clk false, .dly, .dat (b.getLsbD i), .dly, .clk true, .dly]) ∧
    s.Emits t es ∧ es.length = 48 ∧ dlyCount es = 24 ∧
    t.clk = .high ∧ t.dat = Level.ofBool (b.getLsbD 7) ∧
    s.KeepsBuffer t ∧ s.KeepsControl t ∧ s.KeepsHostSide t

/-- `sendCommand(b)` is `start(); writeByte(b); stop()`: 62 events, 30 of them `DLY`, the bus idle at the end (R76). -/
def Obligations.SendCommandIsStartByteStop : Prop :=
  ∀ (b : Byte) (s : State), ∃ s1 s2 t, exec .start s = .next s1 ∧ exec (.writeByte b) s1 = .next s2 ∧
    exec .stop s2 = .next t ∧ exec (.sendCommand b) s = .next t ∧
    t.trace.length = s.trace.length + 62 ∧ dlyCount t.trace = dlyCount s.trace + 30 ∧ t.BusIdle ∧
    s.KeepsBuffer t ∧ s.KeepsControl t ∧ s.KeepsHostSide t

/-- `writeAddress(a)` is `writeByte(buildAddress(a))` (R77, a decision of the spec). -/
def Obligations.WriteAddressWritesTheAddressCommand : Prop :=
  ∀ (a : GridAddr) (s : State), ∃ t, exec (.writeAddress a) s = .next t ∧
    exec (.writeByte (buildAddress a)) s = .next t ∧ t.trace.length = s.trace.length + 48 ∧
    s.KeepsBuffer t ∧ s.KeepsControl t ∧ s.KeepsHostSide t

/-- `writeBlock(a, bytes)` in its operand range: one frame of the address command and the bytes in order, `62 + 48n` events,
`30 + 24n` of them `DLY`, the bus idle at the end (R78). -/
def Obligations.WriteBlockIsOneDataFrame : Prop :=
  ∀ (a : GridAddr) (bytes : List Byte) (s : State), a.val + bytes.length ≤ 16 →
    ∃ t, exec (.writeBlock a bytes) s = .next t ∧
      s.Emits t (startEvents ++ byteEvents (buildAddress a) ++ bytes.flatMap byteEvents ++ stopEvents) ∧
      t.trace.length = s.trace.length + (62 + 48 * bytes.length) ∧
      dlyCount t.trace = dlyCount s.trace + (30 + 24 * bytes.length) ∧ t.BusIdle ∧
      s.KeepsBuffer t ∧ s.KeepsControl t ∧ s.KeepsHostSide t

/-- `releaseLines()`: one `REL`, both latches unknown (R79). -/
def Obligations.ReleaseLinesForgetsBothLatches : Prop :=
  ∀ s : State, ∃ t, exec .releaseLines s = .next t ∧ s.Emits t [.rel] ∧ t.clk = .unknown ∧ t.dat = .unknown ∧
    s.KeepsBuffer t ∧ s.KeepsControl t ∧ s.KeepsHostSide t

/-! ### Encoder functions -/

/-- `buildDataCommand`: the base with the fixed-address flag when fixed, else with the flag value 0; with the default
parameters (log 13) `0x44` and `0x40` (41_command_encoder.md R91). The byte returned stands in `encRet` (log 4). -/
def Obligations.BuildDataCommandReturnsBaseAndFlag : Prop :=
  ∀ (m : Addressing) (s : State), ∃ t, exec (.buildDataCommand m) s = .next t ∧
    t.encRet = (match m with | .fixed => 0x44#8 | .autoIncrement => 0x40#8) ∧
    (m = .fixed → t.encRet = Config.dataCmdBase ||| Config.fixedAddrFlag) ∧
    (m = .autoIncrement → t.encRet = Config.dataCmdBase) ∧
    s.Silent t ∧ s.KeepsBuffer t ∧ s.KeepsControl t ∧ t.result = s.result ∧ t.draws = s.draws ∧ t.port = s.port

/-- `buildDisplayControl`: `0x88 | (brightness & 0x7)` when enabled, which is `0x88 + brightness mod 8`, else `0x80`
(R92; the split of the literals is log 14). -/
def Obligations.BuildDisplayControlMasksTheBrightness : Prop :=
  ∀ (enabled : Bool) (brightness : Byte) (s : State), ∃ t, exec (.buildDisplayControl enabled brightness) s = .next t ∧
    (enabled = true → t.encRet.toNat = 0x88 + brightness.toNat % 8) ∧ (enabled = false → t.encRet = 0x80#8) ∧
    s.Silent t ∧ s.KeepsBuffer t ∧ s.KeepsControl t ∧ t.result = s.result ∧ t.draws = s.draws ∧ t.port = s.port

/-- `buildAddress`: `ADDR_CMD_BASE | addr`, which is `0xC0 + addr` with the default parameter (R93; log 13). -/
def Obligations.BuildAddressAddsTheGridAddress : Prop :=
  ∀ (a : GridAddr) (s : State), ∃ t, exec (.buildAddress a) s = .next t ∧ t.encRet.toNat = 0xC0 + a.val ∧
    s.Silent t ∧ s.KeepsBuffer t ∧ s.KeepsControl t ∧ t.result = s.result ∧ t.draws = s.draws ∧ t.port = s.port

/-! ### Wire command bytes -/

/-- A wire command byte performed on its own travels in one frame of its own and the observer obeys it (20_memory.md R46);
that it is performed on its own is the model's choice (log 3). The bytes `0x40`, `0x44` and `0xC0 + a` are the default
parameters that the spec gives from general knowledge (log 13), `0x80` and `0x88 + l` are read from the source's worked
values (log 14), and the observer is the spec's from general knowledge (log 28). -/
def Obligations.WireCommandBytesReachTheDevice : Prop :=
  ∀ s : State, s.wire.rx = none →
    (∃ t, exec .dataAuto s = .next t ∧ s.Emits t (frameEvents [0x40#8]) ∧
      t.dev = { s.dev with mode := .autoIncrement } ∧ t.BusIdle ∧
      s.KeepsBuffer t ∧ s.KeepsControl t ∧ s.KeepsHostSide t) ∧
    (∃ t, exec .dataFixed s = .next t ∧ s.Emits t (frameEvents [0x44#8]) ∧
      t.dev = { s.dev with mode := .fixed } ∧ t.BusIdle ∧
      s.KeepsBuffer t ∧ s.KeepsControl t ∧ s.KeepsHostSide t) ∧
    (∃ t, exec .dispOff s = .next t ∧ s.Emits t (frameEvents [0x80#8]) ∧
      t.dev = { s.dev with on := false, level := 0#3 } ∧ t.BusIdle ∧
      s.KeepsBuffer t ∧ s.KeepsControl t ∧ s.KeepsHostSide t) ∧
    (∀ l : Brightness, ∃ t, exec (.dispOn l) s = .next t ∧ s.Emits t (frameEvents [0x88#8 ||| l.setWidth 8]) ∧
      t.dev = { s.dev with on := true, level := l } ∧ t.BusIdle ∧
      s.KeepsBuffer t ∧ s.KeepsControl t ∧ s.KeepsHostSide t) ∧
    (∀ a : GridAddr, ∃ t, exec (.addr a) s = .next t ∧ s.Emits t (frameEvents [0xC0#8 ||| BitVec.ofNat 8 a.val]) ∧
      t.dev = { s.dev with ptr := a } ∧ t.BusIdle ∧
      s.KeepsBuffer t ∧ s.KeepsControl t ∧ s.KeepsHostSide t)

/-! ### Life cycle and display state -/

/-- `init()` (42_driver_api.md R101), in every value of `LIFE`: the buffer zero, the data command, sixteen zero bytes at
address 0, `EN` true, `BRT` the initial brightness, the display control; 954 events, 474 of them `DLY`. The initial brightness is
presumed (log 15); that ACTIVE admits it is a decision of the spec (log 25). -/
def Obligations.InitBringsTheKnownStartState : Prop :=
  ∀ s : State, s.buf.wf = true → ∃ t, exec .init s = .next t ∧
    (∀ a : GridAddr, t.buf.read a = 0x00#8) ∧ t.en = true ∧ t.brt = Config.initBrightness ∧ t.life = .active ∧
    s.Emits t (frameEvents [buildDataCommand .autoIncrement] ++
      frameEvents (buildAddress 0 :: List.replicate 16 0x00#8) ++
      frameEvents [buildDisplayControl true (Config.initBrightness.setWidth 8)]) ∧
    t.trace.length = s.trace.length + 954 ∧ dlyCount t.trace = dlyCount s.trace + 474 ∧ t.BusIdle ∧
    s.ReturnsNothing t

/-- `deinit()` (R102): display off, lines released, `LIFE = RELEASED`; 63 events, 30 of them `DLY`; the buffer and `BRT`
are kept (a decision of the spec, D30; log 25). -/
def Obligations.DeinitSwitchesOffAndReleases : Prop :=
  ∀ s : State, s.life = .active → ∃ t, exec .deinit s = .next t ∧
    t.en = false ∧ t.life = .released ∧ t.clk = .unknown ∧ t.dat = .unknown ∧
    s.Emits t (frameEvents [buildDisplayControl false (s.brt.setWidth 8)] ++ [.rel]) ∧
    t.trace.length = s.trace.length + 63 ∧ dlyCount t.trace = dlyCount s.trace + 30 ∧
    s.KeepsBuffer t ∧ t.brt = s.brt ∧ s.ReturnsNothing t

/-- `setBrightness(level)` (R110): `BRT` takes the low 3 bits (D19; log 26) and the display control is sent; 62 events. -/
def Obligations.SetBrightnessStoresLowThreeBits : Prop :=
  ∀ (level : Byte) (s : State), s.life = .active → ∃ t, exec (.setbrt level) s = .next t ∧
    t.brt.toNat = level.toNat % 8 ∧ t.en = s.en ∧ t.life = s.life ∧
    s.Emits t (frameEvents [buildDisplayControl s.en level]) ∧
    t.trace.length = s.trace.length + 62 ∧ dlyCount t.trace = dlyCount s.trace + 30 ∧ t.BusIdle ∧
    s.KeepsBuffer t ∧ s.ReturnsNothing t

/-- `setDisplayOn(on)` (R111): "`EN <- on`; `sendCommand(buildDisplayControl(EN, BRT))`"; 62 events, 30 of them `DLY`; the
buffer and `BRT` are not changed. That the device memory is not changed either (R111 says so of switching off,
20_memory.md R41 of the operation) is a clause about the reference observer, the spec's from general knowledge (log 28). -/
def Obligations.SetDisplayOnSendsTheDisplayControl : Prop :=
  ∀ (on : Bool) (s : State), s.life = .active → ∃ t, exec (.seton on) s = .next t ∧
    t.en = on ∧ t.brt = s.brt ∧ t.life = s.life ∧
    s.Emits t (frameEvents [buildDisplayControl on (s.brt.setWidth 8)]) ∧
    t.trace.length = s.trace.length + 62 ∧ dlyCount t.trace = dlyCount s.trace + 30 ∧ t.BusIdle ∧
    (s.wire.rx = none → t.dev.mem = s.dev.mem) ∧ s.KeepsBuffer t ∧ s.ReturnsNothing t

/-! ### Buffer and device -/

/-- `clear()` (R103): every cell zero, the data command and one data frame of sixteen zero bytes from address 0; 892 events,
444 of them `DLY`; `EN` and `BRT` are not changed. -/
def Obligations.ClearZeroesBufferInOneTransaction : Prop :=
  ∀ s : State, s.life = .active → s.buf.wf = true → ∃ t, exec .clear s = .next t ∧
    (∀ a : GridAddr, t.buf.read a = 0x00#8) ∧
    s.Emits t (frameEvents [buildDataCommand .autoIncrement] ++
      frameEvents (buildAddress 0 :: List.replicate 16 0x00#8)) ∧
    t.trace.length = s.trace.length + 892 ∧ dlyCount t.trace = dlyCount s.trace + 444 ∧ t.BusIdle ∧
    s.KeepsControl t ∧ s.ReturnsNothing t

/-- `writeGrid(address, data)` (R104): for an address below 16 that cell takes the data and two frames are sent, 172 events,
84 of them `DLY`; for any other address nothing changes and no event is emitted. -/
def Obligations.WriteGridWritesOneCellOrNothing : Prop :=
  ∀ (address data : Byte) (s : State), s.life = .active → s.buf.wf = true →
    ∃ t, exec (.wrgrid address data) s = .next t ∧ s.KeepsControl t ∧ s.ReturnsNothing t ∧
      (∀ a : GridAddr, a.val = address.toNat →
        t.buf.read a = data ∧ s.KeepsBufferOutside t (fun b => b = a) ∧
        s.Emits t (frameEvents [buildDataCommand .fixed] ++ frameEvents [buildAddress a, data]) ∧
        t.trace.length = s.trace.length + 172 ∧ dlyCount t.trace = dlyCount s.trace + 84 ∧ t.BusIdle) ∧
      (16 ≤ address.toNat → s.KeepsBuffer t ∧ s.Silent t)

/-- `writeGridArray(start, data, length)` (R105) with `start < 16` and at least the clamped count `n` of bytes: exactly the
cells `start` to `start + n - 1` take the first `n` bytes; the data command and one data frame are sent, `124 + 48n`
events, `60 + 24n` of them `DLY`. A count of 0 follows the general rule (D18; log 26). -/
def Obligations.WriteGridArrayWritesTheClampedRun : Prop :=
  ∀ (start length : Byte) (data : List Byte) (s : State) (a : GridAddr) (n : Nat), s.life = .active →
    s.buf.wf = true → a.val = start.toNat → n = min length.toNat (16 - start.toNat) → n ≤ data.length →
    ∃ t, exec (.wrarr start length data) s = .next t ∧
      (∀ b : GridAddr, a.val ≤ b.val → b.val < a.val + n → data[b.val - a.val]? = some (t.buf.read b)) ∧
      s.KeepsBufferOutside t (fun b => a.val ≤ b.val ∧ b.val < a.val + n) ∧
      s.Emits t (frameEvents [buildDataCommand .autoIncrement] ++ frameEvents (buildAddress a :: data.take n)) ∧
      t.trace.length = s.trace.length + (124 + 48 * n) ∧ dlyCount t.trace = dlyCount s.trace + (60 + 24 * n) ∧
      t.BusIdle ∧ s.KeepsControl t ∧ s.ReturnsNothing t

/-- `writeGridArray` with `start >= 16`: no state change, no event, whatever the data (R105, 60_exceptions.md R141 S2). -/
def Obligations.WriteGridArrayOutsideTheGridsDoesNothing : Prop :=
  ∀ (start length : Byte) (data : List Byte) (s : State), s.life = .active → 16 ≤ start.toNat →
    ∃ t, exec (.wrarr start length data) s = .next t ∧ s.KeepsBuffer t ∧ s.Silent t ∧ s.KeepsControl t ∧
      s.ReturnsNothing t

/-- `getBuffer(address)` (R106): the cell for an address below 16, `0x00` for any other; no state change, no event. -/
def Obligations.GetBufferReturnsTheCell : Prop :=
  ∀ (address : Byte) (s : State), s.life = .active →
    ∃ t, exec (.getbuf address) s = .next t ∧
      (∀ a : GridAddr, a.val = address.toNat → s.Returns t (s.buf.read a)) ∧
      (16 ≤ address.toNat → s.Returns t 0x00#8) ∧ s.KeepsBuffer t ∧ s.Silent t ∧ s.KeepsControl t

/-- `setBuffer(address, data)` (R107): one cell staged, or nothing; no event. -/
def Obligations.SetBufferStagesOneCell : Prop :=
  ∀ (address data : Byte) (s : State), s.life = .active → s.buf.wf = true →
    ∃ t, exec (.setbuf address data) s = .next t ∧
      (∀ a : GridAddr, a.val = address.toNat → t.buf.read a = data ∧ s.KeepsBufferOutside t (fun b => b = a)) ∧
      (16 ≤ address.toNat → s.KeepsBuffer t) ∧ s.Silent t ∧ s.KeepsControl t ∧ s.ReturnsNothing t

/-- `setBufferBit(address, mask, set)` (R108): bit `i` of the cell is `set` where bit `i` of the mask is 1 and unchanged
elsewhere; other cells as before; nothing for an address of 16 or more (D22; log 26); no event. -/
def Obligations.SetBufferBitChangesMaskedBitsOnly : Prop :=
  ∀ (address mask : Byte) (set : Bool) (s : State), s.life = .active → s.buf.wf = true →
    ∃ t, exec (.setbit address mask set) s = .next t ∧
      (∀ a : GridAddr, a.val = address.toNat →
        (∀ k : Nat, k < 8 → (t.buf.read a).getLsbD k = if mask.getLsbD k then set else (s.buf.read a).getLsbD k) ∧
        s.KeepsBufferOutside t (fun b => b = a)) ∧
      (16 ≤ address.toNat → s.KeepsBuffer t) ∧ s.Silent t ∧ s.KeepsControl t ∧ s.ReturnsNothing t

/-- `flush()` (R109): the data command, then one frame of the address command and the sixteen buffer bytes, ascending from
address 0; 892 events, 444 of them `DLY`; the buffer, `EN` and `BRT` are not changed. -/
def Obligations.FlushSendsTheWholeBuffer : Prop :=
  ∀ s : State, s.life = .active → ∃ t bytes, exec .flush s = .next t ∧
    bytes.length = 16 ∧ (∀ a : GridAddr, bytes[a.val]? = some (s.buf.read a)) ∧
    s.Emits t (frameEvents [buildDataCommand .autoIncrement] ++ frameEvents (buildAddress 0 :: bytes)) ∧
    t.trace.length = s.trace.length + 892 ∧ dlyCount t.trace = dlyCount s.trace + 444 ∧ t.BusIdle ∧
    s.KeepsBuffer t ∧ s.KeepsControl t ∧ s.ReturnsNothing t

/-- `test()` (R112): every cell `0xFF`, the data command and one data frame of sixteen bytes `0xFF`; 892 events, 444 of them
`DLY`; it does not switch the display on. That the byte is `0xFF` whatever the display polarity is a decision of the
spec (D16). -/
def Obligations.TestLightsEverySegment : Prop :=
  ∀ s : State, s.life = .active → s.buf.wf = true → ∃ t, exec .test s = .next t ∧
    (∀ a : GridAddr, t.buf.read a = 0xFF#8) ∧
    s.Emits t (frameEvents [buildDataCommand .autoIncrement] ++
      frameEvents (buildAddress 0 :: List.replicate 16 0xFF#8)) ∧
    t.trace.length = s.trace.length + 892 ∧ dlyCount t.trace = dlyCount s.trace + 444 ∧ t.BusIdle ∧
    s.KeepsControl t ∧ s.ReturnsNothing t

/-! ### Pattern lookups -/

/-- `digitPattern(d)` (43_pattern_table.md R135), in every value of `LIFE`: the entry of `d`, clamped to 9; no state change,
no event. -/
def Obligations.DigitPatternClampsToNine : Prop :=
  ∀ (d : Byte) (s : State), ∃ t v, exec (.digit d) s = .next t ∧
    Config.digitTable.toList[min d.toNat 9]? = some v ∧ s.Returns t v ∧ t.draws = s.draws ∧
    s.KeepsBuffer t ∧ s.Silent t ∧ s.KeepsControl t

/-- `hexPattern(h)` (R136): 0 to 9 from the digit table, 10 to 15 from the hex-letter table, above 15 blank. -/
def Obligations.HexPatternReadsTwoTables : Prop :=
  ∀ (h : Byte) (s : State), ∃ t v, exec (.hex h) s = .next t ∧ s.Returns t v ∧
    (h.toNat ≤ 9 → Config.digitTable.toList[h.toNat]? = some v) ∧
    (10 ≤ h.toNat → h.toNat ≤ 15 → Config.hexLetterTable.toList[h.toNat - 10]? = some v) ∧
    (15 < h.toNat → v = 0x00#8) ∧ t.draws = s.draws ∧
    s.KeepsBuffer t ∧ s.Silent t ∧ s.KeepsControl t

/-- `charPattern(c)` (R137), for every value of `LETTER_TABLE`: the codes are ASCII (log 16), '-' is `0x40` and '_' is `0x08`
(R134; log 17). -/
def Obligations.CharPatternReadsTheGlyph : Prop :=
  ∀ (c : Byte) (s : State), ∃ t v, exec (.char c) s = .next t ∧ s.Returns t v ∧
    (0x30 ≤ c.toNat → c.toNat ≤ 0x39 → Config.digitTable.toList[c.toNat - 0x30]? = some v) ∧
    (∀ k : Fin 26, c.toNat = 0x41 + k.val ∨ c.toNat = 0x61 + k.val → v = Config.letterTable k) ∧
    (c.toNat = 0x2D → v = 0x40#8) ∧ (c.toNat = 0x5F → v = 0x08#8) ∧
    (c.toNat < 0x30 ∧ c.toNat ≠ 0x2D ∨ 0x3A ≤ c.toNat ∧ c.toNat ≤ 0x40 ∨
      0x5B ≤ c.toNat ∧ c.toNat ≤ 0x60 ∧ c.toNat ≠ 0x5F ∨ 0x7B ≤ c.toNat → v = 0x00#8) ∧
    t.draws = s.draws ∧ s.KeepsBuffer t ∧ s.Silent t ∧ s.KeepsControl t

/-- The source's tests of the pattern lookups (R138): `digitPattern(7) == 0x07`, `charPattern('8') == digitPattern(8)`, a
lower-case letter gives the pattern of its upper-case letter, `charPattern('!') == 0x00`. That the codes are ASCII
is presumed (log 16). -/
def Obligations.PatternLookupsAgree : Prop :=
  ∀ s : State,
    exec (.digit 0x07#8) s = .next (s.returnByte 0x07#8) ∧
    exec (.char 0x38#8) s = exec (.digit 0x08#8) s ∧
    (∀ c : Byte, 0x61 ≤ c.toNat → c.toNat ≤ 0x7A → exec (.char c) s = exec (.char (c - 0x20#8)) s) ∧
    exec (.char 0x21#8) s = .next (s.returnByte 0x00#8)

/-! ### What the operations achieve together -/

/-- The frames that each host operation adds to `frames(TRACE)` are those of the table of 42_driver_api.md R113, with the
default parameters (log 13 to 15); sampling at the clock rise is the spec's by inference (log 28). What `frames` gives for a
malformed frame, which no host operation sends, is the model's choice (log 29). -/
def Obligations.HostOperationsAddTheirFrames : Prop :=
  ∀ (i : Instr) (s t : State), MachineInvariant s → isHostOperation i = true → exec i s = .next t →
    frames t.trace = frames s.trace ++ hostFrames s i

/-- After `init()`, `clear()`, `flush()` or `test()` the device memory equals the buffer, and the device is in
auto-increment mode (20_memory.md R47 b, R41; the observer: log 28). -/
def Obligations.WholeBufferOperationsMakeDeviceEqualBuffer : Prop :=
  ∀ (i : Instr) (s t : State), MachineInvariant s → (i = .init ∨ i = .clear ∨ i = .flush ∨ i = .test) → exec i s = .next t →
    (∀ a : GridAddr, t.dev.mem.read a = t.buf.read a) ∧ t.dev.mode = .autoIncrement

/-- After `writeGrid` or `writeGridArray` the cells it names agree with the buffer, and every other device cell is as before:
a cell staged elsewhere is not sent (R41, R47 c; the observer: log 28). -/
def Obligations.GridWritesSendOnlyTheirCells : Prop :=
  (∀ (address data : Byte) (s t : State) (a : GridAddr), MachineInvariant s → a.val = address.toNat →
    exec (.wrgrid address data) s = .next t →
    t.dev.mem.read a = data ∧ t.buf.read a = data ∧
    ∀ b : GridAddr, b ≠ a → t.dev.mem.read b = s.dev.mem.read b) ∧
  (∀ (start length : Byte) (data : List Byte) (s t : State) (b : GridAddr), MachineInvariant s → start.toNat < 16 →
    exec (.wrarr start length data) s = .next t →
    (start.toNat ≤ b.val → b.val < start.toNat + min length.toNat (16 - start.toNat) →
      t.dev.mem.read b = t.buf.read b) ∧
    (b.val < start.toNat ∨ start.toNat + min length.toNat (16 - start.toNat) ≤ b.val →
      t.dev.mem.read b = s.dev.mem.read b))

/-- After every operation that sends a display control frame the device is on exactly when `EN` is true, with level `BRT`
when on and level 0 when off (R47 d; the observer: log 28). -/
def Obligations.DisplayControlFollowsEnableAndBrightness : Prop :=
  ∀ (i : Instr) (s t : State), MachineInvariant s →
    (i = .init ∨ i = .deinit ∨ (∃ level, i = .setbrt level) ∨ ∃ on, i = .seton on) → exec i s = .next t →
    t.dev.on = t.en ∧ (t.en = true → t.dev.level = t.brt) ∧ (t.en = false → t.dev.level = 0#3)

/-- Staging changes the buffer and not the device: after `setBuffer` or `setBufferBit` the device is as before, and a later
`flush()` makes every device cell equal to the staged buffer (R41, R42; the observer: log 28). -/
def Obligations.StagedCellsReachTheDeviceAtFlush : Prop :=
  ∀ (i : Instr) (s t u : State), MachineInvariant s →
    ((∃ address data, i = .setbuf address data) ∨ ∃ address mask set, i = .setbit address mask set) →
    exec i s = .next t → exec .flush t = .next u →
    t.dev = s.dev ∧ ∀ a : GridAddr, u.dev.mem.read a = t.buf.read a ∧ u.buf.read a = t.buf.read a

/-- "For all `addr` in 0..15 and byte `v`: `writeGrid(addr, v)` then `getBuffer(addr) == v`" (42_driver_api.md R114 a), and
the same of `setBuffer`. -/
def Obligations.GetBufferReturnsTheLastWrite : Prop :=
  ∀ (address v : Byte) (s : State), s.life = .active → s.buf.wf = true → address.toNat < 16 →
    (∃ t u, exec (.wrgrid address v) s = .next t ∧ exec (.getbuf address) t = .next u ∧ u.result = v) ∧
    (∃ t u, exec (.setbuf address v) s = .next t ∧ exec (.getbuf address) t = .next u ∧ u.result = v)

/-- Setting and clearing with one mask (44_operation_laws.md R122): each is idempotent on the buffer, and setting then
clearing leaves what clearing alone leaves. -/
def Obligations.SetBufferBitLaws : Prop :=
  ∀ (address mask : Byte) (v : Bool) (s t u : State), s.buf.wf = true →
    exec (.setbit address mask v) s = .next t →
    (exec (.setbit address mask v) t = .next u → t.KeepsBuffer u) ∧
    (∀ w : State, exec (.setbit address mask (!v)) t = .next u → exec (.setbit address mask (!v)) s = .next w →
      w.KeepsBuffer u)

/-- `init()` reads no state of the block: from two states that differ only in the buffer, `EN`, `BRT` and `LIFE` it gives
the same state, so that the reset values of `BUF`, `EN` and `BRT` cannot be observed (10_state.md R23). -/
def Obligations.InitHidesTheResetValues : Prop :=
  ∀ (s : State) (m : Memory) (en : Bool) (brt : Brightness) (life : Life), s.buf.wf = true → m.wf = true →
    exec .init ((((s.setBuf m).setEn en).setBrt brt).setLife life) = exec .init s
end

