-- ==== Sys2Proof/Laws/State.lean ====
section
/-! SUPPORT. The fields of a state after each update: one lemma per field per update, so that no proof unfolds a record
update. Each is true by rfl, and is proved by `cases s; rfl`: a lemma proved by rfl alone is checked again at each use, by
comparing whole states, and that would run the observer over the events of a frame. -/

namespace Sys2Proof.Machine

variable (s : State)

@[simp] theorem State.setBuf_buf (m : Memory) : (s.setBuf m).buf = m := rfl
@[simp] theorem State.setBuf_en (m : Memory) : (s.setBuf m).en = s.en := by cases s; rfl
@[simp] theorem State.setBuf_brt (m : Memory) : (s.setBuf m).brt = s.brt := by cases s; rfl
@[simp] theorem State.setBuf_life (m : Memory) : (s.setBuf m).life = s.life := by cases s; rfl
@[simp] theorem State.setBuf_wire (m : Memory) : (s.setBuf m).wire = s.wire := by cases s; rfl
@[simp] theorem State.setBuf_trace (m : Memory) : (s.setBuf m).trace = s.trace := by cases s; rfl
@[simp] theorem State.setBuf_result (m : Memory) : (s.setBuf m).result = s.result := by cases s; rfl
@[simp] theorem State.setBuf_draws (m : Memory) : (s.setBuf m).draws = s.draws := by cases s; rfl
@[simp] theorem State.setBuf_encRet (m : Memory) : (s.setBuf m).encRet = s.encRet := by cases s; rfl
@[simp] theorem State.setBuf_port (m : Memory) : (s.setBuf m).port = s.port := by cases s; rfl

@[simp] theorem State.setEn_buf (v : Bool) : (s.setEn v).buf = s.buf := by cases s; rfl
@[simp] theorem State.setEn_en (v : Bool) : (s.setEn v).en = v := rfl
@[simp] theorem State.setEn_brt (v : Bool) : (s.setEn v).brt = s.brt := by cases s; rfl
@[simp] theorem State.setEn_life (v : Bool) : (s.setEn v).life = s.life := by cases s; rfl
@[simp] theorem State.setEn_wire (v : Bool) : (s.setEn v).wire = s.wire := by cases s; rfl
@[simp] theorem State.setEn_trace (v : Bool) : (s.setEn v).trace = s.trace := by cases s; rfl
@[simp] theorem State.setEn_result (v : Bool) : (s.setEn v).result = s.result := by cases s; rfl
@[simp] theorem State.setEn_draws (v : Bool) : (s.setEn v).draws = s.draws := by cases s; rfl
@[simp] theorem State.setEn_encRet (v : Bool) : (s.setEn v).encRet = s.encRet := by cases s; rfl
@[simp] theorem State.setEn_port (v : Bool) : (s.setEn v).port = s.port := by cases s; rfl

@[simp] theorem State.setBrt_buf (v : Brightness) : (s.setBrt v).buf = s.buf := by cases s; rfl
@[simp] theorem State.setBrt_en (v : Brightness) : (s.setBrt v).en = s.en := by cases s; rfl
@[simp] theorem State.setBrt_brt (v : Brightness) : (s.setBrt v).brt = v := rfl
@[simp] theorem State.setBrt_life (v : Brightness) : (s.setBrt v).life = s.life := by cases s; rfl
@[simp] theorem State.setBrt_wire (v : Brightness) : (s.setBrt v).wire = s.wire := by cases s; rfl
@[simp] theorem State.setBrt_trace (v : Brightness) : (s.setBrt v).trace = s.trace := by cases s; rfl
@[simp] theorem State.setBrt_result (v : Brightness) : (s.setBrt v).result = s.result := by cases s; rfl
@[simp] theorem State.setBrt_draws (v : Brightness) : (s.setBrt v).draws = s.draws := by cases s; rfl
@[simp] theorem State.setBrt_encRet (v : Brightness) : (s.setBrt v).encRet = s.encRet := by cases s; rfl
@[simp] theorem State.setBrt_port (v : Brightness) : (s.setBrt v).port = s.port := by cases s; rfl

@[simp] theorem State.setLife_buf (v : Life) : (s.setLife v).buf = s.buf := by cases s; rfl
@[simp] theorem State.setLife_en (v : Life) : (s.setLife v).en = s.en := by cases s; rfl
@[simp] theorem State.setLife_brt (v : Life) : (s.setLife v).brt = s.brt := by cases s; rfl
@[simp] theorem State.setLife_life (v : Life) : (s.setLife v).life = v := rfl
@[simp] theorem State.setLife_wire (v : Life) : (s.setLife v).wire = s.wire := by cases s; rfl
@[simp] theorem State.setLife_trace (v : Life) : (s.setLife v).trace = s.trace := by cases s; rfl
@[simp] theorem State.setLife_result (v : Life) : (s.setLife v).result = s.result := by cases s; rfl
@[simp] theorem State.setLife_draws (v : Life) : (s.setLife v).draws = s.draws := by cases s; rfl
@[simp] theorem State.setLife_encRet (v : Life) : (s.setLife v).encRet = s.encRet := by cases s; rfl
@[simp] theorem State.setLife_port (v : Life) : (s.setLife v).port = s.port := by cases s; rfl

@[simp] theorem State.returnByte_buf (v : Byte) : (s.returnByte v).buf = s.buf := by cases s; rfl
@[simp] theorem State.returnByte_en (v : Byte) : (s.returnByte v).en = s.en := by cases s; rfl
@[simp] theorem State.returnByte_brt (v : Byte) : (s.returnByte v).brt = s.brt := by cases s; rfl
@[simp] theorem State.returnByte_life (v : Byte) : (s.returnByte v).life = s.life := by cases s; rfl
@[simp] theorem State.returnByte_wire (v : Byte) : (s.returnByte v).wire = s.wire := by cases s; rfl
@[simp] theorem State.returnByte_trace (v : Byte) : (s.returnByte v).trace = s.trace := by cases s; rfl
@[simp] theorem State.returnByte_result (v : Byte) : (s.returnByte v).result = v := rfl
@[simp] theorem State.returnByte_draws (v : Byte) : (s.returnByte v).draws = s.draws := by cases s; rfl
@[simp] theorem State.returnByte_encRet (v : Byte) : (s.returnByte v).encRet = s.encRet := by cases s; rfl
@[simp] theorem State.returnByte_port (v : Byte) : (s.returnByte v).port = s.port := by cases s; rfl

@[simp] theorem State.returnNothing_buf : s.returnNothing.buf = s.buf := by cases s; rfl
@[simp] theorem State.returnNothing_en : s.returnNothing.en = s.en := by cases s; rfl
@[simp] theorem State.returnNothing_brt : s.returnNothing.brt = s.brt := by cases s; rfl
@[simp] theorem State.returnNothing_life : s.returnNothing.life = s.life := by cases s; rfl
@[simp] theorem State.returnNothing_wire : s.returnNothing.wire = s.wire := by cases s; rfl
@[simp] theorem State.returnNothing_trace : s.returnNothing.trace = s.trace := by cases s; rfl
@[simp] theorem State.returnNothing_result : s.returnNothing.result = Config.freeResult s.draws := by cases s; rfl
@[simp] theorem State.returnNothing_draws : s.returnNothing.draws = s.draws + 1 := by cases s; rfl
@[simp] theorem State.returnNothing_encRet : s.returnNothing.encRet = s.encRet := by cases s; rfl
@[simp] theorem State.returnNothing_port : s.returnNothing.port = s.port := by cases s; rfl

@[simp] theorem State.setEncRet_buf (v : Byte) : (s.setEncRet v).buf = s.buf := by cases s; rfl
@[simp] theorem State.setEncRet_en (v : Byte) : (s.setEncRet v).en = s.en := by cases s; rfl
@[simp] theorem State.setEncRet_brt (v : Byte) : (s.setEncRet v).brt = s.brt := by cases s; rfl
@[simp] theorem State.setEncRet_life (v : Byte) : (s.setEncRet v).life = s.life := by cases s; rfl
@[simp] theorem State.setEncRet_wire (v : Byte) : (s.setEncRet v).wire = s.wire := by cases s; rfl
@[simp] theorem State.setEncRet_trace (v : Byte) : (s.setEncRet v).trace = s.trace := by cases s; rfl
@[simp] theorem State.setEncRet_result (v : Byte) : (s.setEncRet v).result = s.result := by cases s; rfl
@[simp] theorem State.setEncRet_draws (v : Byte) : (s.setEncRet v).draws = s.draws := by cases s; rfl
@[simp] theorem State.setEncRet_encRet (v : Byte) : (s.setEncRet v).encRet = v := rfl
@[simp] theorem State.setEncRet_port (v : Byte) : (s.setEncRet v).port = s.port := by cases s; rfl

@[simp] theorem State.setPort_buf (p : Port) : (s.setPort p).buf = s.buf := by cases s; rfl
@[simp] theorem State.setPort_en (p : Port) : (s.setPort p).en = s.en := by cases s; rfl
@[simp] theorem State.setPort_brt (p : Port) : (s.setPort p).brt = s.brt := by cases s; rfl
@[simp] theorem State.setPort_life (p : Port) : (s.setPort p).life = s.life := by cases s; rfl
@[simp] theorem State.setPort_wire (p : Port) : (s.setPort p).wire = s.wire := by cases s; rfl
@[simp] theorem State.setPort_trace (p : Port) : (s.setPort p).trace = s.trace := by cases s; rfl
@[simp] theorem State.setPort_result (p : Port) : (s.setPort p).result = s.result := by cases s; rfl
@[simp] theorem State.setPort_draws (p : Port) : (s.setPort p).draws = s.draws := by cases s; rfl
@[simp] theorem State.setPort_encRet (p : Port) : (s.setPort p).encRet = s.encRet := by cases s; rfl
@[simp] theorem State.setPort_port (p : Port) : (s.setPort p).port = p := rfl

@[simp] theorem State.clearBench_buf : s.clearBench.buf = s.buf := by cases s; rfl
@[simp] theorem State.clearBench_en : s.clearBench.en = s.en := by cases s; rfl
@[simp] theorem State.clearBench_brt : s.clearBench.brt = s.brt := by cases s; rfl
@[simp] theorem State.clearBench_life : s.clearBench.life = s.life := by cases s; rfl
@[simp] theorem State.clearBench_wire : s.clearBench.wire = s.wire := by cases s; rfl
@[simp] theorem State.clearBench_trace : s.clearBench.trace = s.trace := by cases s; rfl
@[simp] theorem State.clearBench_result : s.clearBench.result = s.result := by cases s; rfl
@[simp] theorem State.clearBench_draws : s.clearBench.draws = s.draws := by cases s; rfl
@[simp] theorem State.clearBench_encRet : s.clearBench.encRet = s.encRet := by cases s; rfl
@[simp] theorem State.clearBench_port : s.clearBench.port = { s.port with bench := none } := by cases s; rfl

@[simp] theorem State.place_buf (w : TableWord) : (s.place w).buf = s.buf := by cases s; cases w <;> rfl
@[simp] theorem State.place_en (w : TableWord) : (s.place w).en = s.en := by cases s; cases w <;> rfl
@[simp] theorem State.place_brt (w : TableWord) : (s.place w).brt = s.brt := by cases s; cases w <;> rfl
@[simp] theorem State.place_life (w : TableWord) : (s.place w).life = s.life := by cases s; cases w <;> rfl
@[simp] theorem State.place_wire (w : TableWord) : (s.place w).wire = s.wire := by cases s; cases w <;> rfl
@[simp] theorem State.place_trace (w : TableWord) : (s.place w).trace = s.trace := by cases s; cases w <;> rfl
@[simp] theorem State.place_result (w : TableWord) : (s.place w).result = s.result := by cases s; cases w <;> rfl
@[simp] theorem State.place_draws (w : TableWord) : (s.place w).draws = s.draws := by cases s; cases w <;> rfl
@[simp] theorem State.place_encRet (w : TableWord) : (s.place w).encRet = s.encRet := by cases s; cases w <;> rfl
@[simp] theorem State.place_port_host (r : Request) :
    (s.place (.host r)).port = { host := r :: s.port.host, bench := none } := by cases s; rfl
@[simp] theorem State.place_port_wire (b : Byte) :
    (s.place (.wire b)).port = { s.port with bench := some b } := by cases s; rfl

@[simp] theorem State.emits_buf (es : List Event) : (s.emits es).buf = s.buf := by cases s; rfl
@[simp] theorem State.emits_en (es : List Event) : (s.emits es).en = s.en := by cases s; rfl
@[simp] theorem State.emits_brt (es : List Event) : (s.emits es).brt = s.brt := by cases s; rfl
@[simp] theorem State.emits_life (es : List Event) : (s.emits es).life = s.life := by cases s; rfl
@[simp] theorem State.emits_wire (es : List Event) : (s.emits es).wire = es.foldl Wire.step s.wire := by cases s; rfl
@[simp] theorem State.emits_trace (es : List Event) : (s.emits es).trace = s.trace ++ es := by cases s; rfl
@[simp] theorem State.emits_result (es : List Event) : (s.emits es).result = s.result := by cases s; rfl
@[simp] theorem State.emits_draws (es : List Event) : (s.emits es).draws = s.draws := by cases s; rfl
@[simp] theorem State.emits_encRet (es : List Event) : (s.emits es).encRet = s.encRet := by cases s; rfl
@[simp] theorem State.emits_port (es : List Event) : (s.emits es).port = s.port := by cases s; rfl

@[simp] theorem State.fillBuffer_buf (v : Byte) : (s.fillBuffer v).buf = s.buf.fill v := by
  rw [State.fillBuffer, State.setBuf_buf]
@[simp] theorem State.fillBuffer_en (v : Byte) : (s.fillBuffer v).en = s.en := by cases s; rfl
@[simp] theorem State.fillBuffer_brt (v : Byte) : (s.fillBuffer v).brt = s.brt := by cases s; rfl
@[simp] theorem State.fillBuffer_life (v : Byte) : (s.fillBuffer v).life = s.life := by cases s; rfl
@[simp] theorem State.fillBuffer_wire (v : Byte) : (s.fillBuffer v).wire = s.wire := by cases s; rfl
@[simp] theorem State.fillBuffer_trace (v : Byte) : (s.fillBuffer v).trace = s.trace := by cases s; rfl
@[simp] theorem State.fillBuffer_result (v : Byte) : (s.fillBuffer v).result = s.result := by cases s; rfl
@[simp] theorem State.fillBuffer_draws (v : Byte) : (s.fillBuffer v).draws = s.draws := by cases s; rfl
@[simp] theorem State.fillBuffer_encRet (v : Byte) : (s.fillBuffer v).encRet = s.encRet := by cases s; rfl
@[simp] theorem State.fillBuffer_port (v : Byte) : (s.fillBuffer v).port = s.port := by cases s; rfl

end Sys2Proof.Machine
end

