-- ==== Sys2Proof/Laws/Memory.lean ====
section
/-! SUPPORT. The laws of a space of 16 cells: a read after a write, every other cell left alone, the canonical form kept by
every operation, and equal contents are equal data. -/

namespace Sys2Proof.Machine

theorem Memory.read_cons (a : GridAddr) (v : Byte) (rest : Memory) (b : GridAddr)
    (h : a = b → v = Memory.unlisted → rest.read b = Memory.unlisted) :
    (Memory.cons a v rest).read b = if a = b then v else rest.read b := by
  unfold Memory.cons
  by_cases hv : v = Memory.unlisted
  · by_cases hab : a = b
    · simp [hv, hab, h hab hv]
    · simp [hv, hab]
  · simp [hv, Memory.read, Fin.ext_iff]

/-- A canonical memory lists no address below its bound. -/
theorem Memory.read_below : ∀ (m : Memory) (lo : Nat) (a : GridAddr), m.wfFrom lo = true → a.val < lo →
    m.read a = Memory.unlisted
  | [], _, _, _, _ => rfl
  | (k, v) :: rest, lo, a, hw, ha => by
    simp only [Memory.wfFrom, Bool.and_eq_true, decide_eq_true_eq] at hw
    have hk : k ≠ a.val := by omega
    simp only [Memory.read, hk, if_false]
    exact Memory.read_below rest (k + 1) a hw.2 (by omega)

theorem Memory.read_write_from : ∀ (m : Memory) (lo : Nat) (a : GridAddr) (v : Byte) (b : GridAddr),
    m.wfFrom lo = true → (m.write a v).read b = if a = b then v else m.read b
  | [], _, a, v, b, _ => by
    simp only [Memory.write]
    exact Memory.read_cons a v [] b (fun _ _ => rfl)
  | (k, w) :: rest, lo, a, v, b, hw => by
    have hw' := hw
    simp only [Memory.wfFrom, Bool.and_eq_true, decide_eq_true_eq] at hw'
    simp only [Memory.write]
    split
    · next hlt =>
      simp only [Memory.read]
      rw [Memory.read_write_from rest (k + 1) a v b hw'.2]
      by_cases hab : a = b
      · subst hab
        have : k ≠ a.val := by omega
        simp [this]
      · simp [hab]
    · next hlt =>
      split
      · next heq =>
        rw [Memory.read_cons]
        · simp only [Memory.read]
          by_cases hab : a = b
          · simp [hab]
          · have : k ≠ b.val := by
              intro h
              exact hab (Fin.ext (by omega))
            simp [hab, this]
        · intro hab _
          exact Memory.read_below rest (k + 1) b hw'.2 (by rw [← hab]; omega)
      · next hne =>
        rw [Memory.read_cons]
        intro hab _
        exact Memory.read_below ((k, w) :: rest) (a.val + 1) b
          (by
            simp only [Memory.wfFrom, Bool.and_eq_true, decide_eq_true_eq]
            exact ⟨⟨⟨by omega, hw'.1.1.2⟩, hw'.1.2⟩, hw'.2⟩)
          (by rw [hab]; omega)

/-- What a byte reads as after a write: the written value at its address, every other cell as before. -/
theorem Memory.read_write {m : Memory} (hw : m.wf = true) (a : GridAddr) (v : Byte) (b : GridAddr) :
    (m.write a v).read b = if a = b then v else m.read b :=
  Memory.read_write_from m 0 a v b hw

theorem Memory.wfFrom_mono : ∀ (m : Memory) (lo lo' : Nat), lo' ≤ lo → m.wfFrom lo = true → m.wfFrom lo' = true
  | [], _, _, _, _ => rfl
  | (k, v) :: rest, lo, lo', h, hw => by
    simp only [Memory.wfFrom, Bool.and_eq_true, decide_eq_true_eq] at hw ⊢
    exact ⟨⟨⟨by omega, hw.1.1.2⟩, hw.1.2⟩, hw.2⟩

theorem Memory.wfFrom_cons (a : GridAddr) (v : Byte) (rest : Memory) (lo : Nat) (hlo : lo ≤ a.val)
    (hw : rest.wfFrom (a.val + 1) = true) : (Memory.cons a v rest).wfFrom lo = true := by
  unfold Memory.cons
  split
  · exact Memory.wfFrom_mono rest _ _ (by omega) hw
  · next hv =>
    simp only [Memory.wfFrom, Bool.and_eq_true, decide_eq_true_eq, bne_iff_ne]
    exact ⟨⟨⟨hlo, a.isLt⟩, hv⟩, hw⟩

theorem Memory.wfFrom_write : ∀ (m : Memory) (lo : Nat) (a : GridAddr) (v : Byte), lo ≤ a.val →
    m.wfFrom lo = true → (m.write a v).wfFrom lo = true
  | [], lo, a, v, hlo, _ => Memory.wfFrom_cons a v [] lo hlo rfl
  | (k, w) :: rest, lo, a, v, hlo, hw => by
    have hw' := hw
    simp only [Memory.wfFrom, Bool.and_eq_true, decide_eq_true_eq] at hw'
    simp only [Memory.write]
    split
    · next hlt =>
      simp only [Memory.wfFrom, Bool.and_eq_true, decide_eq_true_eq]
      exact ⟨hw'.1, Memory.wfFrom_write rest (k + 1) a v (by omega) hw'.2⟩
    · split
      · next heq => exact Memory.wfFrom_cons a v rest lo hlo (heq ▸ hw'.2)
      · next hlt hne =>
        refine Memory.wfFrom_cons a v _ lo hlo ?_
        simp only [Memory.wfFrom, Bool.and_eq_true, decide_eq_true_eq]
        exact ⟨⟨⟨by omega, hw'.1.1.2⟩, hw'.1.2⟩, hw'.2⟩

/-- A write keeps the canonical form. -/
theorem Memory.wf_write {m : Memory} (hw : m.wf = true) (a : GridAddr) (v : Byte) : (m.write a v).wf = true :=
  Memory.wfFrom_write m 0 a v (Nat.zero_le _) hw

/-- The memory of the reset state has the canonical form. -/
@[simp] theorem Memory.wf_nil : Memory.wf [] = true := rfl

@[simp] theorem Memory.read_nil (a : GridAddr) : Memory.read [] a = Memory.unlisted := rfl

theorem Memory.ext_from : ∀ (m n : Memory) (lo : Nat), m.wfFrom lo = true → n.wfFrom lo = true →
    (∀ a : GridAddr, m.read a = n.read a) → m = n
  | [], [], _, _, _, _ => rfl
  | [], (k, v) :: rest, lo, _, hn, h => by
    simp only [Memory.wfFrom, Bool.and_eq_true, decide_eq_true_eq, bne_iff_ne] at hn
    have := h ⟨k, hn.1.1.2⟩
    simp only [Memory.read, if_true] at this
    exact absurd this.symm hn.1.2
  | (k, v) :: rest, [], lo, hm, _, h => by
    simp only [Memory.wfFrom, Bool.and_eq_true, decide_eq_true_eq, bne_iff_ne] at hm
    have := h ⟨k, hm.1.1.2⟩
    simp only [Memory.read, if_true] at this
    exact absurd this hm.1.2
  | (k, v) :: rest, (k', v') :: rest', lo, hm, hn, h => by
    simp only [Memory.wfFrom, Bool.and_eq_true, decide_eq_true_eq, bne_iff_ne] at hm hn
    have hk : k = k' := by
      by_contra hne
      rcases Nat.lt_or_gt_of_ne hne with hlt | hlt
      · have h1 := h ⟨k, hm.1.1.2⟩
        have h2 : Memory.read ((k', v') :: rest') ⟨k, hm.1.1.2⟩ = Memory.unlisted :=
          Memory.read_below _ (k + 1) _ (by
            simp only [Memory.wfFrom, Bool.and_eq_true, decide_eq_true_eq, bne_iff_ne]
            exact ⟨⟨⟨by omega, hn.1.1.2⟩, hn.1.2⟩, hn.2⟩) (by simp)
        rw [h2] at h1
        simp only [Memory.read, if_true] at h1
        exact hm.1.2 h1
      · have h1 := h ⟨k', hn.1.1.2⟩
        have h2 : Memory.read ((k, v) :: rest) ⟨k', hn.1.1.2⟩ = Memory.unlisted :=
          Memory.read_below _ (k' + 1) _ (by
            simp only [Memory.wfFrom, Bool.and_eq_true, decide_eq_true_eq, bne_iff_ne]
            exact ⟨⟨⟨by omega, hm.1.1.2⟩, hm.1.2⟩, hm.2⟩) (by simp)
        rw [h2] at h1
        simp only [Memory.read, if_true] at h1
        exact hn.1.2 h1.symm
    subst hk
    have hv : v = v' := by
      have := h ⟨k, hm.1.1.2⟩
      simpa only [Memory.read, if_true] using this
    subst hv
    have hrest : rest = rest' := by
      refine Memory.ext_from rest rest' (k + 1) hm.2 hn.2 (fun a => ?_)
      by_cases ha : k = a.val
      · rw [Memory.read_below rest (k + 1) a hm.2 (by omega), Memory.read_below rest' (k + 1) a hn.2 (by omega)]
      · have := h a
        simpa only [Memory.read, ha, if_false] using this
    rw [hrest]

/-- Canonical memories with equal contents are equal data. -/
theorem Memory.ext_of_read {m n : Memory} (hm : m.wf = true) (hn : n.wf = true)
    (h : ∀ a : GridAddr, m.read a = n.read a) : m = n :=
  Memory.ext_from m n 0 hm hn h

theorem Memory.wf_foldl_write (f : GridAddr → Byte) : ∀ (l : List GridAddr) {m : Memory}, m.wf = true →
    (l.foldl (fun m a => m.write a (f a)) m).wf = true
  | [], _, hw => hw
  | a :: l, _, hw => Memory.wf_foldl_write f l (Memory.wf_write hw a (f a))

theorem Memory.read_foldl_write (f : GridAddr → Byte) : ∀ (l : List GridAddr) {m : Memory}, m.wf = true →
    ∀ b, (l.foldl (fun m a => m.write a (f a)) m).read b = if b ∈ l then f b else m.read b
  | [], _, _, b => by simp
  | a :: l, m, hw, b => by
    rw [List.foldl_cons, Memory.read_foldl_write f l (Memory.wf_write hw a (f a)), Memory.read_write hw]
    by_cases hb : b ∈ l
    · simp [hb]
    · by_cases hab : a = b
      · simp [hab]
      · simp [hb, hab, Ne.symm hab]

theorem Config.mem_grids (a : GridAddr) : a ∈ Config.grids := by
  revert a
  decide

/-- Overwriting keeps the canonical form. -/
theorem Memory.wf_overwrite {m : Memory} (hw : m.wf = true) (f : GridAddr → Byte) : (m.overwrite f).wf = true :=
  Memory.wf_foldl_write f Config.grids hw

/-- Filling keeps the canonical form. -/
theorem Memory.wf_fill {m : Memory} (hw : m.wf = true) (v : Byte) : (m.fill v).wf = true :=
  Memory.wf_overwrite hw _

/-- After a fill every cell holds the value. -/
theorem Memory.read_fill {m : Memory} (hw : m.wf = true) (v : Byte) (a : GridAddr) : (m.fill v).read a = v := by
  unfold Memory.fill Memory.overwrite
  rw [Memory.read_foldl_write (fun _ => v) Config.grids hw, if_pos (Config.mem_grids a)]

/-- A run of writes keeps the canonical form. -/
theorem Memory.wf_writeRun : ∀ (bs : List Byte) {m : Memory} (p : Nat), m.wf = true → (m.writeRun p bs).wf = true
  | [], _, _, hw => hw
  | b :: bs, m, p, hw => by
    simp only [Memory.writeRun]
    split
    · exact Memory.wf_writeRun bs (p + 1) (Memory.wf_write hw _ _)
    · exact hw

/-- After a run of writes from `p`, cell `p + i` holds byte `i` and every other cell reads as before. -/
theorem Memory.read_writeRun : ∀ (bs : List Byte) {m : Memory} (p : Nat), m.wf = true → p + bs.length ≤ 16 →
    ∀ a : GridAddr, (m.writeRun p bs).read a =
      if h : p ≤ a.val ∧ a.val - p < bs.length then bs[a.val - p]'h.2 else m.read a
  | [], _, _, _, _, a => by simp [Memory.writeRun]
  | b :: bs, m, p, hw, hlen, a => by
    simp only [List.length_cons] at hlen
    have hp : p < 16 := by omega
    simp only [Memory.writeRun, hp, dif_pos]
    rw [Memory.read_writeRun bs (p + 1) (Memory.wf_write hw _ _) (by omega) a, Memory.read_write hw]
    by_cases h1 : p + 1 ≤ a.val ∧ a.val - (p + 1) < bs.length
    · have h2 : p ≤ a.val ∧ a.val - p < (b :: bs).length := by simp only [List.length_cons]; omega
      rw [dif_pos h1, dif_pos h2]
      have : a.val - p = (a.val - (p + 1)) + 1 := by omega
      simp [this]
    · rw [dif_neg h1]
      by_cases h3 : (⟨p, hp⟩ : GridAddr) = a
      · have h2 : p ≤ a.val ∧ a.val - p < (b :: bs).length := by subst h3; simp
        rw [if_pos h3, dif_pos h2]
        have : a.val - p = 0 := by subst h3; simp
        simp [this]
      · have h2 : ¬ (p ≤ a.val ∧ a.val - p < (b :: bs).length) := by
          have : p ≠ a.val := fun h => h3 (Fin.ext h)
          simp only [List.length_cons]
          omega
        rw [if_neg h3, dif_neg h2]

/-- The bytes of a memory are its 16 reads, ascending. -/
theorem Memory.bytes_length (m : Memory) : m.bytes.length = 16 := by simp [Memory.bytes, Config.grids]

theorem Memory.bytes_getElem (m : Memory) (a : GridAddr) :
    m.bytes[a.val]'(by rw [Memory.bytes_length]; exact a.isLt) = m.read a := by
  have h : Config.grids[a.val]'(by simp [Config.grids]) = a := by
    revert a
    decide
  simp only [Memory.bytes, List.getElem_map, h]

end Sys2Proof.Machine
end

