-- ==== Sys2Proof/Laws/Wire.lean ====
section
/-! SUPPORT. What the lines and their observer do with a frame, said once: from any state with no frame open, the events of a
frame leave both lines high, no frame open, and the observer after that frame. -/

namespace Sys2Proof.Machine

/-- The eight levels of a byte on the data line, least significant bit first (20_memory.md R35). -/
def byteLevels (b : Byte) : List Level :=
  [Level.ofBool (b.getLsbD 0), Level.ofBool (b.getLsbD 1), Level.ofBool (b.getLsbD 2), Level.ofBool (b.getLsbD 3),
   Level.ofBool (b.getLsbD 4), Level.ofBool (b.getLsbD 5), Level.ofBool (b.getLsbD 6), Level.ofBool (b.getLsbD 7)]

@[simp] theorem Level.bit?_ofBool (v : Bool) : (Level.ofBool v).bit? = some v := by cases v <;> rfl

/-! ### Cutting sampled bits into bytes -/

theorem groupBytes_cons (i : Nat) (acc : Byte) (v : Bool) (ls : List Level) :
    groupBytes i acc (Level.ofBool v :: ls) =
      if i = 7 then (groupBytes 0 0#8 ls).map (putBit v i acc :: ·) else groupBytes (i + 1) (putBit v i acc) ls := by
  simp [groupBytes]

/-- A byte put together from its own eight bits is that byte. -/
theorem putBit_all (b : Byte) :
    putBit (b.getLsbD 7) 7 (putBit (b.getLsbD 6) 6 (putBit (b.getLsbD 5) 5 (putBit (b.getLsbD 4) 4
      (putBit (b.getLsbD 3) 3 (putBit (b.getLsbD 2) 2 (putBit (b.getLsbD 1) 1 (putBit (b.getLsbD 0) 0 0#8))))))) = b := by
  revert b
  decide

theorem groupBytes_byteLevels (b : Byte) (ls : List Level) :
    groupBytes 0 0#8 (byteLevels b ++ ls) = (groupBytes 0 0#8 ls).map (b :: ·) := by
  simp only [byteLevels, List.cons_append, List.nil_append, groupBytes_cons, Nat.reduceAdd, Nat.reduceEqDiff,
    OfNat.zero_ne_ofNat, OfNat.one_ne_ofNat, if_false, if_true, putBit_all]

theorem groupBytes_flatMap : ∀ bytes : List Byte, groupBytes 0 0#8 (bytes.flatMap byteLevels) = some bytes
  | [] => rfl
  | b :: bytes => by
    rw [List.flatMap_cons, groupBytes_byteLevels, groupBytes_flatMap bytes]
    rfl

/-- The sampled bits of a frame of `k` bytes, `8k + 1` of them, are cut back into its bytes (20_memory.md R43). -/
theorem frameBytes_levels (bytes : List Byte) : frameBytes (bytes.flatMap byteLevels ++ [.low]) = some bytes := by
  simp [frameBytes, groupBytes_flatMap]

/-- Bits with an unknown level among them are no bytes. -/
theorem groupBytes_unknown : ∀ (ls : List Level) (i : Nat) (acc : Byte), Level.unknown ∈ ls → groupBytes i acc ls = none
  | [], _, _, h => absurd h (by simp)
  | .unknown :: _, _, _, _ => rfl
  | .low :: ls, i, acc, h => by
    have ht : Level.unknown ∈ ls := by simpa using h
    simp [groupBytes, Level.bit?, groupBytes_unknown ls _ _ ht]
  | .high :: ls, i, acc, h => by
    have ht : Level.unknown ∈ ls := by simpa using h
    simp [groupBytes, Level.bit?, groupBytes_unknown ls _ _ ht]

/-- A frame in which a second START condition occurred is no frame of whole bytes, whatever is sampled after it
(log 11). -/
theorem frameBytes_openFrame (bits more : List Level) : frameBytes (openFrame (some bits) ++ more) = none := by
  have h : openFrame (some bits) ++ more = (bits ++ [.unknown]) ++ (.unknown :: more) := by simp [openFrame]
  rw [frameBytes, h, if_neg (by simp), List.dropLast_append_of_ne_nil (by simp)]
  exact groupBytes_unknown _ _ _ (by simp)

/-! ### The events of a frame -/

theorem byteEvents_eq (b : Byte) :
    byteEvents b = cellEvents (b.getLsbD 0) ++ (cellEvents (b.getLsbD 1) ++ (cellEvents (b.getLsbD 2) ++
      (cellEvents (b.getLsbD 3) ++ (cellEvents (b.getLsbD 4) ++ (cellEvents (b.getLsbD 5) ++
        (cellEvents (b.getLsbD 6) ++ cellEvents (b.getLsbD 7))))))) := by
  simp [byteEvents, shiftCells]

/-- A bit cell with a frame open: one bit sampled, the clock high, the data line at the bit. -/
theorem foldl_step_cell (c d : Level) (bits : List Level) (dev : Device) (v : Bool) :
    (cellEvents v).foldl Wire.step { clk := c, dat := d, rx := some bits, dev := dev } =
      { clk := .high, dat := Level.ofBool v, rx := some (bits ++ [Level.ofBool v]), dev := dev } := by
  cases v <;> cases c <;> cases d <;>
    simp [cellEvents, Wire.step, linesAfter, isStart, isStop, isRise, Level.ofBool]

/-- A byte with a frame open: its eight bits sampled. -/
theorem foldl_step_byte (w : Wire) (bits : List Level) (h : w.rx = some bits) (b : Byte) :
    (byteEvents b).foldl Wire.step w =
      { clk := .high, dat := Level.ofBool (b.getLsbD 7), rx := some (bits ++ byteLevels b), dev := w.dev } := by
  obtain ⟨c, d, rx, dev⟩ := w
  subst h
  simp only [byteEvents_eq, List.foldl_append, foldl_step_cell, byteLevels, List.append_assoc, List.cons_append,
    List.nil_append]

/-- START with no frame open: both lines low, a frame open with no bit. -/
theorem foldl_step_start (w : Wire) (h : w.rx = none) :
    startEvents.foldl Wire.step w = { clk := .low, dat := .low, rx := some [], dev := w.dev } := by
  obtain ⟨c, d, rx, dev⟩ := w
  subst h
  cases c <;> cases d <;> simp [startEvents, openFrame, Wire.step, linesAfter, isStart, isStop, isRise, Level.ofBool]

/-- The bytes of a frame, sampled one after another. -/
theorem foldl_step_bytes : ∀ (bytes : List Byte) (w : Wire) (bits : List Level), w.rx = some bits →
    ∃ c d, (bytes.flatMap byteEvents).foldl Wire.step w =
      { clk := c, dat := d, rx := some (bits ++ bytes.flatMap byteLevels), dev := w.dev }
  | [], w, bits, h => by
    refine ⟨w.clk, w.dat, ?_⟩
    obtain ⟨c, d, rx, dev⟩ := w
    subst h
    simp
  | b :: bytes, w, bits, h => by
    rw [List.flatMap_cons, List.foldl_append, foldl_step_byte w bits h]
    obtain ⟨c, d, hr⟩ := foldl_step_bytes bytes
      { clk := .high, dat := Level.ofBool (b.getLsbD 7), rx := some (bits ++ byteLevels b), dev := w.dev } _ rfl
    exact ⟨c, d, by rw [hr]; simp⟩

/-- STOP with a frame open: both lines high, no frame open, the observer has received the bits and the clock rise of
`stop()` itself. -/
theorem foldl_step_stop (w : Wire) (bits : List Level) (h : w.rx = some bits) :
    stopEvents.foldl Wire.step w =
      { clk := .high, dat := .high, rx := none, dev := w.dev.receive (bits ++ [.low]) } := by
  obtain ⟨c, d, rx, dev⟩ := w
  subst h
  cases c <;> cases d <;> simp [stopEvents, Wire.step, linesAfter, isStart, isStop, isRise, Level.ofBool]

/-- A whole frame with no frame open before it: the bus is idle after it and the observer has taken the frame. -/
theorem foldl_step_frame (w : Wire) (h : w.rx = none) (bytes : List Byte) :
    (frameEvents bytes).foldl Wire.step w =
      { clk := .high, dat := .high, rx := none, dev := w.dev.frame bytes } := by
  unfold frameEvents
  rw [List.foldl_append, List.foldl_append, foldl_step_start w h]
  obtain ⟨c, d, hb⟩ := foldl_step_bytes bytes { clk := .low, dat := .low, rx := some [], dev := w.dev } [] rfl
  rw [hb, foldl_step_stop _ _ rfl]
  simp [Device.receive, frameBytes_levels]

/-! ### Frames of a trace -/

/-- The sampled bits of the frame that an event closes, if it closes one. -/
def closedBy (w : Wire) (e : Event) : List (List Level) :=
  if isStop (w.clk, w.dat) (linesAfter e (w.clk, w.dat)) then w.rx.toList else []

theorem isStart_not_isStop (p q : Level × Level) (h : isStart p q = true) : isStop p q = false := by
  obtain ⟨a, b⟩ := p
  cases b <;> simp_all [isStart, isStop]

/-- The segments of a waveform, one event at a time, beside the walk of the lines. -/
theorem segments_cons (w : Wire) (e : Event) (es : List Event) :
    segments (w.clk, w.dat) w.rx (waveform (w.clk, w.dat) (e :: es)) =
      closedBy w e ++ segments ((w.step e).clk, (w.step e).dat) (w.step e).rx
        (waveform ((w.step e).clk, (w.step e).dat) es) := by
  simp only [waveform, segments, closedBy, Wire.step]
  by_cases hs : isStart (w.clk, w.dat) (linesAfter e (w.clk, w.dat)) = true
  · simp [hs, isStart_not_isStop _ _ hs]
  · by_cases ht : isStop (w.clk, w.dat) (linesAfter e (w.clk, w.dat)) = true
    · cases hr : w.rx <;> simp [hs, ht]
    · by_cases hu : isRise (w.clk, w.dat) (linesAfter e (w.clk, w.dat)) = true
      · simp [hs, ht, hu]
      · simp [hs, ht, hu]

/-- The segments of a list of events that begins in the middle of another: those of its first part, then those of the
rest from where the first part leaves the lines. -/
theorem segments_append : ∀ (es fs : List Event) (w : Wire),
    segments (w.clk, w.dat) w.rx (waveform (w.clk, w.dat) (es ++ fs)) =
      segments (w.clk, w.dat) w.rx (waveform (w.clk, w.dat) es) ++
        segments ((es.foldl Wire.step w).clk, (es.foldl Wire.step w).dat) (es.foldl Wire.step w).rx
          (waveform ((es.foldl Wire.step w).clk, (es.foldl Wire.step w).dat) fs)
  | [], fs, w => by simp [waveform, segments]
  | e :: es, fs, w => by
    rw [List.cons_append, segments_cons, segments_cons, segments_append es fs (w.step e)]
    simp

theorem segments_cell (c d : Level) (bits : List Level) (v : Bool) (es : List Event) :
    segments (c, d) (some bits) (waveform (c, d) (cellEvents v ++ es)) =
      segments (.high, Level.ofBool v) (some (bits ++ [Level.ofBool v])) (waveform (.high, Level.ofBool v) es) := by
  cases v <;> cases c <;> cases d <;>
    simp [cellEvents, segments, waveform, linesAfter, isStart, isStop, isRise, Level.ofBool]

theorem segments_byte (w : Wire) (bits : List Level) (h : w.rx = some bits) (b : Byte) :
    segments (w.clk, w.dat) w.rx (waveform (w.clk, w.dat) (byteEvents b)) = [] := by
  obtain ⟨c, d, rx, dev⟩ := w
  subst h
  rw [byteEvents_eq, ← List.append_nil (cellEvents (b.getLsbD 7))]
  simp only [segments_cell]
  rfl

theorem segments_bytes : ∀ (bytes : List Byte) (w : Wire) (bits : List Level), w.rx = some bits →
    segments (w.clk, w.dat) w.rx (waveform (w.clk, w.dat) (bytes.flatMap byteEvents)) = []
  | [], _, _, _ => rfl
  | b :: bytes, w, bits, h => by
    rw [List.flatMap_cons, segments_append, segments_byte w bits h, foldl_step_byte w bits h]
    exact segments_bytes bytes (Wire.mk _ _ _ _) _ rfl

/-- The events of a frame close exactly one frame: its own sampled bits. -/
theorem segments_frame (w : Wire) (h : w.rx = none) (bytes : List Byte) :
    segments (w.clk, w.dat) w.rx (waveform (w.clk, w.dat) (frameEvents bytes)) =
      [bytes.flatMap byteLevels ++ [.low]] := by
  unfold frameEvents
  obtain ⟨c, d, hb⟩ := foldl_step_bytes bytes { clk := .low, dat := .low, rx := some [], dev := w.dev } [] rfl
  have hstart : segments (w.clk, w.dat) w.rx (waveform (w.clk, w.dat) startEvents) = [] := by
    obtain ⟨c, d, rx, dev⟩ := w
    subst h
    cases c <;> cases d <;> simp [startEvents, segments, waveform, linesAfter, isStart, isStop, isRise, Level.ofBool]
  rw [segments_append, segments_append, hstart, List.foldl_append, foldl_step_start w h, hb]
  have hbytes := segments_bytes bytes { clk := .low, dat := .low, rx := some [], dev := w.dev } [] rfl
  rw [hbytes]
  generalize bytes.flatMap byteLevels = ls
  cases c <;> cases d <;> simp [stopEvents, segments, waveform, linesAfter, isStart, isStop, isRise, Level.ofBool]

/-- A frame appended to a trace that leaves no frame open adds that frame to `frames(TRACE)` (20_memory.md R43). -/
theorem frames_append_frame (tr : List Event) (h : (tr.foldl Wire.step Wire.reset).rx = none) (bytes : List Byte) :
    frames (tr ++ frameEvents bytes) = frames tr ++ [bytes] := by
  have happ := segments_append tr (frameEvents bytes) Wire.reset
  rw [segments_frame _ h] at happ
  simp only [frames, traceSegments]
  have h0 : segments (Wire.reset.clk, Wire.reset.dat) Wire.reset.rx
      (waveform (Wire.reset.clk, Wire.reset.dat) (tr ++ frameEvents bytes)) =
      segments (.unknown, .unknown) none (waveform (.unknown, .unknown) (tr ++ frameEvents bytes)) := rfl
  rw [← h0, happ, List.filterMap_append]
  simp [frameBytes_levels, Wire.reset]

/-- A release of the lines closes no frame. -/
theorem frames_append_rel (tr : List Event) : frames (tr ++ [.rel]) = frames tr := by
  have happ := segments_append tr [.rel] Wire.reset
  have hrel : ∀ w : Wire, segments (w.clk, w.dat) w.rx (waveform (w.clk, w.dat) [.rel]) = [] := by
    intro ⟨c, d, rx, dev⟩
    cases c <;> cases d <;> simp [segments, waveform, linesAfter, isStart, isStop, isRise]
  rw [hrel, List.append_nil] at happ
  simp only [frames, traceSegments]
  exact congrArg (List.filterMap frameBytes) happ

/-- The lines and the observer after a release. -/
@[simp] theorem step_rel (w : Wire) : w.step .rel = { clk := .unknown, dat := .unknown, rx := w.rx, dev := w.dev } := by
  obtain ⟨c, d, rx, dev⟩ := w
  cases c <;> cases d <;> simp [Wire.step, linesAfter, isStart, isStop, isRise]

end Sys2Proof.Machine
end

