-- ==== Sys2Proof/Laws/Bus.lean ====
section
/-! SUPPORT. The shared operations that drive the lines, each as the list of events it emits, and the counts of those lists
(70_reset_and_hazards.md R173). -/

namespace Sys2Proof.Machine

/-- Two runs of events are one run of both. -/
theorem State.emits_emits (s : State) (es fs : List Event) : (s.emits es).emits fs = s.emits (es ++ fs) := by
  simp [State.emits]

/-- `sendCommand(b)` emits one frame of one byte (40_bus_protocol.md R76). -/
theorem State.sendCommand_eq (s : State) (b : Byte) : s.sendCommand b = s.emits (frameEvents [b]) := by
  simp [State.sendCommand, State.busStart, State.busStop, State.busWriteByte, State.emits_emits, frameEvents]

theorem State.foldl_busWriteByte (s : State) (bytes : List Byte) :
    bytes.foldl State.busWriteByte s = s.emits (bytes.flatMap byteEvents) := by
  induction bytes generalizing s with
  | nil => simp [State.emits]
  | cons b bytes ih => rw [List.foldl_cons, ih, State.busWriteByte, State.emits_emits, List.flatMap_cons]

/-- `writeBlock(a, bytes)` emits one frame: the address command, then the bytes (R78). -/
theorem State.writeBlock_eq (s : State) (a : GridAddr) (bytes : List Byte) :
    s.writeBlock a bytes = s.emits (frameEvents (buildAddress a :: bytes)) := by
  simp [State.writeBlock, State.writeAddress, State.busStart, State.busStop, State.busWriteByte,
    State.foldl_busWriteByte, State.emits_emits, frameEvents]

/-- The auto-increment data command, then one data frame. -/
theorem State.sendRun_eq (s : State) (a : GridAddr) (bytes : List Byte) :
    s.sendRun a bytes =
      s.emits (frameEvents [buildDataCommand .autoIncrement] ++ frameEvents (buildAddress a :: bytes)) := by
  rw [State.sendRun, State.sendCommand_eq, State.writeBlock_eq, State.emits_emits]

/-- The display control byte in a frame of its own. -/
theorem State.sendDisplayControl_eq (s : State) :
    s.sendDisplayControl = s.emits (frameEvents [buildDisplayControl s.en (s.brt.setWidth 8)]) := by
  rw [State.sendDisplayControl, State.sendCommand_eq]

/-! ### Counts -/

@[simp] theorem cellEvents_length (v : Bool) : (cellEvents v).length = 6 := rfl

@[simp] theorem byteEvents_length (b : Byte) : (byteEvents b).length = 48 := by simp [byteEvents_eq]

theorem flatMap_byteEvents_length (bytes : List Byte) : (bytes.flatMap byteEvents).length = 48 * bytes.length := by
  induction bytes with
  | nil => rfl
  | cons b bytes ih => rw [List.flatMap_cons, List.length_append, ih, byteEvents_length, List.length_cons]; omega

/-- A frame of `k` bytes is `14 + 48k` events (30_encoding.md R52). -/
theorem frameEvents_length (bytes : List Byte) : (frameEvents bytes).length = 14 + 48 * bytes.length := by
  simp only [frameEvents, List.length_append, flatMap_byteEvents_length]
  simp only [startEvents, stopEvents, List.length_cons, List.length_nil]
  omega

theorem dlyCount_append (es fs : List Event) : dlyCount (es ++ fs) = dlyCount es + dlyCount fs := by
  simp [dlyCount]

theorem dlyCount_cellEvents (v : Bool) : dlyCount (cellEvents v) = 3 := by cases v <;> decide

theorem dlyCount_byteEvents (b : Byte) : dlyCount (byteEvents b) = 24 := by
  simp [byteEvents_eq, dlyCount_append, dlyCount_cellEvents]

end Sys2Proof.Machine
end

