-- ==== Sys2Proof/Laws/Device.lean ====
section
/-! SUPPORT. What the observer of the device does with each frame that the engine sends (20_memory.md R46), and that every
frame keeps the canonical form of `DEV_MEM`. -/

namespace Sys2Proof.Machine

/-- A data command frame sets the addressing mode. -/
theorem Device.frame_dataCommand (d : Device) (m : Addressing) :
    d.frame [buildDataCommand m] = { d with mode := m } := by
  have h : ∀ m : Addressing, isCommandByte (buildDataCommand m) = true ∧
      (buildDataCommand m).extractLsb' 6 2 = 0b01#2 ∧
      (if (buildDataCommand m).getLsbD 2 then Addressing.fixed else Addressing.autoIncrement) = m := by
    intro m
    cases m <;> decide
  obtain ⟨h1, h2, h3⟩ := h m
  simp only [Device.frame, Device.command, h1, h2, h3, if_true]

/-- A display control frame for display off. -/
theorem Device.frame_displayOff (d : Device) (b : Byte) :
    d.frame [buildDisplayControl false b] = { d with on := false, level := 0#3 } := by
  have hb : buildDisplayControl false b = 0x80#8 := rfl
  have h1 : isCommandByte 0x80#8 = true := by decide
  have h2 : (0x80#8).extractLsb' 6 2 = 0b10#2 := by decide
  have h3 : (0x80#8).getLsbD 3 = false := by decide
  have h4 : (0x80#8).extractLsb' 0 3 = 0#3 := by decide
  rw [hb]
  simp only [Device.frame, Device.command, h1, h2, h3, h4, if_true]
  simp

/-- A display control frame for display on. -/
theorem Device.frame_displayOn (d : Device) (l : Brightness) :
    d.frame [buildDisplayControl true (l.setWidth 8)] = { d with on := true, level := l } := by
  have h : ∀ l : Brightness,
      isCommandByte (buildDisplayControl true (l.setWidth 8)) = true ∧
      (buildDisplayControl true (l.setWidth 8)).extractLsb' 6 2 = 0b10#2 ∧
      (buildDisplayControl true (l.setWidth 8)).getLsbD 3 = true ∧
      (buildDisplayControl true (l.setWidth 8)).extractLsb' 0 3 = l := by decide
  obtain ⟨h1, h2, h3, h4⟩ := h l
  simp only [Device.frame, Device.command, h1, h2, h3, h4, if_true]
  simp

/-- A data frame sets the pointer and stores its bytes one after another. -/
theorem Device.frame_address (d : Device) (a : GridAddr) (data : List Byte) :
    d.frame (buildAddress a :: data) = data.foldl Device.store { d with ptr := a } := by
  have h : ∀ a : GridAddr,
      isCommandByte (buildAddress a) = true ∧ (buildAddress a).extractLsb' 6 2 = 0b11#2 ∧
      wireAddr (buildAddress a) = a := by decide
  obtain ⟨h1, h2, h3⟩ := h a
  simp only [Device.frame, Device.command, h1, h2, h3, if_true]
  simp

/-- One data byte in fixed mode. -/
theorem Device.store_fixed (d : Device) (h : d.mode = .fixed) (b : Byte) :
    d.store b = { d with mem := d.mem.write d.ptr b } := by
  obtain ⟨mem, mode, ptr, on, level, draws⟩ := d
  subst h
  rfl

/-- Data bytes in auto-increment mode from the pointer on, as far as address 15: stored at rising addresses; the mode and
the display control are not touched. -/
theorem Device.foldl_store_auto : ∀ (data : List Byte) (d : Device), d.mode = .autoIncrement →
    d.ptr.val + data.length ≤ 16 →
    (data.foldl Device.store d).mem = d.mem.writeRun d.ptr.val data ∧
    (data.foldl Device.store d).mode = d.mode ∧ (data.foldl Device.store d).on = d.on ∧
    (data.foldl Device.store d).level = d.level
  | [], d, _, _ => ⟨rfl, rfl, rfl, rfl⟩
  | b :: data, d, hm, hlen => by
    simp only [List.length_cons] at hlen
    have hstore : d.store b = ({ d with mem := d.mem.write d.ptr b } : Device).advance := by
      simp only [Device.store, hm]
    by_cases hp : d.ptr.val + 1 < 16
    · have hadv : d.store b = { d with mem := d.mem.write d.ptr b, ptr := ⟨d.ptr.val + 1, hp⟩ } := by
        rw [hstore]
        simp only [Device.advance, hp, dif_pos]
      obtain ⟨h1, h2, h3, h4⟩ := Device.foldl_store_auto data (d.store b) (by rw [hadv]; exact hm)
        (by rw [hadv]; simp only; omega)
      rw [List.foldl_cons]
      refine ⟨?_, ?_, ?_, ?_⟩
      · rw [h1, hadv]
        simp only [Memory.writeRun, Fin.is_lt, dif_pos]
      · rw [h2, hadv]
      · rw [h3, hadv]
      · rw [h4, hadv]
    · have hnil : data = [] := List.length_eq_zero_iff.mp (by omega)
      subst hnil
      have hadv : d.store b = { d with mem := d.mem.write d.ptr b, ptr := Config.freePtr d.draws, draws := d.draws + 1 } := by
        rw [hstore]
        simp only [Device.advance, hp, dif_neg, not_false_eq_true]
      simp only [List.foldl_cons, List.foldl_nil, hadv, Memory.writeRun, Fin.is_lt, dif_pos, and_self]

theorem Device.wf_store (d : Device) (h : d.mem.wf = true) (b : Byte) : (d.store b).mem.wf = true := by
  unfold Device.store Device.advance
  have hw := Memory.wf_write h d.ptr b
  split
  · split <;> exact hw
  · exact hw

theorem Device.wf_foldl_store : ∀ (data : List Byte) (d : Device), d.mem.wf = true →
    (data.foldl Device.store d).mem.wf = true
  | [], _, h => h
  | b :: data, d, h => Device.wf_foldl_store data (d.store b) (Device.wf_store d h b)

theorem Device.wf_free (d : Device) (h : d.mem.wf = true) : d.free.mem.wf = true := by
  simp only [Device.free]
  exact Memory.wf_overwrite h _

/-- A frame keeps the canonical form of `DEV_MEM`. -/
theorem Device.wf_frame (d : Device) (h : d.mem.wf = true) (bytes : List Byte) : (d.frame bytes).mem.wf = true := by
  cases bytes with
  | nil => exact Device.wf_free d h
  | cons b0 data =>
    simp only [Device.frame, Device.command]
    split
    · split
      · exact h
      · split
        · exact h
        · split
          · exact Device.wf_foldl_store data _ h
          · exact Device.wf_free d h
    · exact Device.wf_free d h

end Sys2Proof.Machine
end

