-- ==== Sys2Proof/Laws/Encoding.lean ====
section
/-! SUPPORT. The fields of a request word are what it was built from, and the fields of the command bytes. -/

namespace Sys2Proof

theorem mkReq_toNat (n : Nat) (hn : n < 16) (a b c : Byte) :
    (mkReq n a b c).toNat = n * 2 ^ 24 + a.toNat * 2 ^ 16 + b.toNat * 2 ^ 8 + c.toNat := by
  have ha := a.isLt
  have hb := b.isLt
  have hc := c.isLt
  rw [mkReq, BitVec.toNat_ofNat, Nat.mod_eq_of_lt (by omega)]

@[simp] theorem reqOpSel_mkReq (n : Nat) (hn : n < 16) (a b c : Byte) : reqOpSel (mkReq n a b c) = n := by
  have ha := a.isLt
  have hb := b.isLt
  have hc := c.isLt
  rw [reqOpSel, mkReq_toNat n hn]
  omega

@[simp] theorem reqA_mkReq (n : Nat) (hn : n < 16) (a b c : Byte) : reqA (mkReq n a b c) = a := by
  have ha := a.isLt
  have hb := b.isLt
  have hc := c.isLt
  apply BitVec.eq_of_toNat_eq
  rw [reqA, BitVec.toNat_ofNat, mkReq_toNat n hn]
  omega

@[simp] theorem reqB_mkReq (n : Nat) (hn : n < 16) (a b c : Byte) : reqB (mkReq n a b c) = b := by
  have ha := a.isLt
  have hb := b.isLt
  have hc := c.isLt
  apply BitVec.eq_of_toNat_eq
  rw [reqB, BitVec.toNat_ofNat, mkReq_toNat n hn]
  omega

@[simp] theorem reqC_mkReq (n : Nat) (hn : n < 16) (a b c : Byte) : reqC (mkReq n a b c) = c := by
  have ha := a.isLt
  have hb := b.isLt
  have hc := c.isLt
  apply BitVec.eq_of_toNat_eq
  rw [reqC, BitVec.toNat_ofNat, mkReq_toNat n hn]
  omega

@[simp] theorem byteIsTrue_byteOfBool (v : Bool) : byteIsTrue (byteOfBool v) = v := by cases v <;> rfl

end Sys2Proof
end

