-- ==== Sys2Proof/Laws/Ops.lean ====
section
/-! SUPPORT. Each shared operation, said once: what it does and what it leaves alone, so that no proof unfolds it. -/

namespace Sys2Proof.Machine

/-! ### Operands -/

/-- An operand of 16 or more names no cell. -/
theorem gridAddr?_none {b : Byte} (h : 16 ≤ b.toNat) : gridAddr? b = none := by
  rw [gridAddr?, dif_neg (by omega)]

/-- An operand below 16 names its cell. -/
theorem gridAddr?_some {b : Byte} {a : GridAddr} (h : a.val = b.toNat) : gridAddr? b = some a := by
  have hb : b.toNat < 16 := h ▸ a.isLt
  rw [gridAddr?, dif_pos hb]
  exact congrArg some (Fin.ext h.symm)

/-- The low three bits of a byte: its remainder by 8, and all that the display control byte takes of it. -/
theorem lowThree_spec (level : Byte) :
    (lowThree level).toNat = level.toNat % 8 ∧
    ∀ e : Bool, buildDisplayControl e ((lowThree level).setWidth 8) = buildDisplayControl e level := by
  revert level
  decide

/-! ### Lines -/

/-- The latches after one event. -/
theorem Wire.step_lines (w : Wire) (e : Event) : ((w.step e).clk, (w.step e).dat) = linesAfter e (w.clk, w.dat) := by
  simp only [Wire.step]
  split
  · rfl
  · split
    · split <;> rfl
    · split <;> rfl

theorem Wire.step_clk (w : Wire) (e : Event) : (w.step e).clk = (linesAfter e (w.clk, w.dat)).1 := by
  rw [← Wire.step_lines]

theorem Wire.step_dat (w : Wire) (e : Event) : (w.step e).dat = (linesAfter e (w.clk, w.dat)).2 := by
  rw [← Wire.step_lines]

/-- After the events of `stop()` both lines are high, whatever came before. -/
theorem idle_after_stop (w : Wire) :
    (stopEvents.foldl Wire.step w).clk = .high ∧ (stopEvents.foldl Wire.step w).dat = .high := by
  simp [stopEvents, Wire.step_clk, Wire.step_dat, linesAfter, Level.ofBool]

/-- After the events of a frame both lines are high, whatever came before. -/
theorem idle_after_frame (bytes : List Byte) (w : Wire) :
    ((frameEvents bytes).foldl Wire.step w).clk = .high ∧ ((frameEvents bytes).foldl Wire.step w).dat = .high := by
  simp only [frameEvents, List.foldl_append]
  exact idle_after_stop _

/-! ### Events, and the result -/

/-- A run of events changes the lines, the trace and the observer, and nothing else. -/
theorem State.emits_spec (s : State) (es : List Event) :
    s.Emits (s.emits es) es ∧ s.KeepsBuffer (s.emits es) ∧ s.KeepsControl (s.emits es) ∧ s.KeepsHostSide (s.emits es) :=
  ⟨⟨rfl, rfl⟩, fun _ => rfl, ⟨rfl, rfl, rfl⟩, rfl, rfl, rfl, rfl⟩

/-- Performing an encoder function on its own changes `encRet` alone. -/
theorem State.setEncRet_spec (s : State) (v : Byte) :
    (s.setEncRet v).encRet = v ∧ s.Silent (s.setEncRet v) ∧ s.KeepsBuffer (s.setEncRet v) ∧
    s.KeepsControl (s.setEncRet v) ∧ (s.setEncRet v).result = s.result ∧ (s.setEncRet v).draws = s.draws ∧
    (s.setEncRet v).port = s.port :=
  ⟨rfl, ⟨rfl, rfl⟩, fun _ => rfl, ⟨rfl, rfl, rfl⟩, rfl, rfl, rfl⟩

/-- Returning a byte changes `RESULT` alone. -/
theorem State.returnByte_spec (s : State) (v : Byte) :
    s.Returns (s.returnByte v) v ∧ (s.returnByte v).draws = s.draws ∧ s.KeepsBuffer (s.returnByte v) ∧
    s.Silent (s.returnByte v) ∧ s.KeepsControl (s.returnByte v) :=
  ⟨⟨rfl, rfl, rfl⟩, rfl, fun _ => rfl, ⟨rfl, rfl⟩, rfl, rfl, rfl⟩

/-- Returning nothing changes `RESULT` and its counter alone. -/
theorem State.returnNothing_spec (s : State) :
    s.ReturnsNothing s.returnNothing ∧ s.KeepsBuffer s.returnNothing ∧ s.Silent s.returnNothing ∧
    s.KeepsControl s.returnNothing :=
  ⟨⟨rfl, rfl⟩, fun _ => rfl, ⟨rfl, rfl⟩, rfl, rfl, rfl⟩

/-! ### What is presented -/

/-- A state with nothing on the test bench is as it was when the bench is cleared. -/
theorem State.clearBench_eq {s : State} (h : s.port.bench = none) : s.clearBench = s := by
  obtain ⟨_, _, _, _, _, _, _, _, _, host, bench⟩ := s
  simp only at h
  subst h
  rfl

/-- All that a step can take: the byte of the test bench, or with none there the host's oldest request. -/
theorem State.takeWord_some {s s' : State} {w : TableWord} (h : s.takeWord = some (w, s')) :
    (∃ b, s.port.bench = some b ∧ w = .wire b ∧ s' = s.clearBench) ∨
    (∃ r rest, s.port = { host := r :: rest, bench := none } ∧ w = .host r ∧
      s' = s.setPort { host := rest, bench := none }) := by
  obtain ⟨buf, en, brt, life, wire, trace, result, draws, encRet, host, bench⟩ := s
  cases bench with
  | some b =>
    simp only [State.takeWord, Option.some.injEq, Prod.mk.injEq] at h
    exact .inl ⟨b, rfl, h.1.symm, h.2.symm⟩
  | none =>
    cases host with
    | nil => simp [State.takeWord] at h
    | cons r rest =>
      simp only [State.takeWord, Option.some.injEq, Prod.mk.injEq] at h
      exact .inr ⟨r, rest, rfl, h.1.symm, h.2.symm⟩

/-- A step takes nothing exactly when nothing is presented. -/
theorem State.takeWord_none {s : State} : s.takeWord = none ↔ s.port = Port.empty := by
  obtain ⟨buf, en, brt, life, wire, trace, result, draws, encRet, host, bench⟩ := s
  cases bench <;> cases host <;> simp [State.takeWord, Port.empty]

/-- The word that was placed is the one that the next step takes. -/
theorem State.takeWord_place (s : State) (w : TableWord) : (s.place w).takeWord = some (w, s.clearBench) := by
  cases w <;> rfl

/-- Every host request decodes, to a host operation or the reserved code (30_encoding.md R61, R62). -/
theorem decodeHost_spec (req : ReqWord) (pay : List Byte) :
    isHostOperation (decodeHost req pay) = true ∨ decodeHost req pay = .reserved15 := by
  unfold decodeHost
  split <;> first | exact .inr rfl | exact .inl rfl

/-! ### Admission -/

/-- In ACTIVE the operation is performed. -/
theorem State.whenActive_active {s : State} (h : s.life = .active) (k : Host.Outcome State Fault Refusal) :
    s.whenActive k = k := by
  rw [State.whenActive, if_pos h]

/-- Outside ACTIVE the operation is refused. -/
theorem State.whenActive_inactive {s : State} (h : s.life ≠ .active) (k : Host.Outcome State Fault Refusal) :
    s.whenActive k = .refused (.notActive s.life) := by
  rw [State.whenActive, if_neg h]

/-- An admitted operation that goes on was ACTIVE, and its outcome is its own. -/
theorem State.whenActive_next {s t : State} {k : Host.Outcome State Fault Refusal} (h : s.whenActive k = .next t) :
    s.life = .active ∧ k = .next t := by
  by_cases hl : s.life = .active
  · exact ⟨hl, State.whenActive_active hl k ▸ h⟩
  · rw [State.whenActive_inactive hl] at h
    cases h

end Sys2Proof.Machine
end

