-- ==== Sys2Proof/Laws/PerInstr.lean ====
section
/-! SUPPORT. Per instruction: the word that the encoder writes has the fixed bits of the instruction's row of
spec/opcode_table.json. -/

namespace Sys2Proof.Laws

/-- The fixed bits of a row: the mask and match of a wire command byte, the operation select code of a host request, or
no bits at all (an internal operation, width 0). -/
inductive TableRow
  | wire (mask pattern : Byte)
  | host (opSel : Nat)
  | internal

/-- The row of each instruction. -/
def tableRow : Instr → TableRow
  | .dataAuto => .wire 0xFF#8 0x40#8
  | .dataFixed => .wire 0xFF#8 0x44#8
  | .dispOff => .wire 0xFF#8 0x80#8
  | .dispOn _ => .wire 0xF8#8 0x88#8
  | .addr _ => .wire 0xF0#8 0xC0#8
  | .init => .host 0
  | .deinit => .host 1
  | .setbrt _ => .host 2
  | .seton _ => .host 3
  | .clear => .host 4
  | .wrgrid _ _ => .host 5
  | .wrarr _ _ _ => .host 6
  | .getbuf _ => .host 7
  | .setbuf _ _ => .host 8
  | .setbit _ _ _ => .host 9
  | .flush => .host 10
  | .digit _ => .host 11
  | .hex _ => .host 12
  | .char _ => .host 13
  | .test => .host 14
  | .reserved15 => .host 15
  | .delay => .internal
  | .driveClock _ => .internal
  | .driveData _ => .internal
  | .start => .internal
  | .stop => .internal
  | .writeByte _ => .internal
  | .sendCommand _ => .internal
  | .writeAddress _ => .internal
  | .writeBlock _ _ => .internal
  | .releaseLines => .internal
  | .buildDataCommand _ => .internal
  | .buildDisplayControl _ _ => .internal
  | .buildAddress _ => .internal

namespace MatchesTable

/-- The instruction's word, where it has one, has its row's fixed bits. -/
def Statement (i : Instr) : Prop :=
  match encode i, tableRow i with
  | some (.wire b), .wire mask pattern => b &&& mask = pattern
  | some (.host r), .host opSel => reqOpSel r.req = opSel
  | none, .internal => True
  | _, _ => False

theorem dataAuto : Statement .dataAuto := show 0x40#8 &&& 0xFF#8 = 0x40#8 by decide
theorem dataFixed : Statement .dataFixed := show 0x44#8 &&& 0xFF#8 = 0x44#8 by decide
theorem dispOff : Statement .dispOff := show 0x80#8 &&& 0xFF#8 = 0x80#8 by decide
theorem dispOn (l : Brightness) : Statement (.dispOn l) := by
  have h : ∀ l : Brightness, (0x88#8 ||| BitVec.ofNat 8 l.toNat) &&& 0xF8#8 = 0x88#8 := by decide
  exact h l
theorem addr (a : GridAddr) : Statement (.addr a) := by
  have h : ∀ a : GridAddr, (0xC0#8 ||| BitVec.ofNat 8 a.val) &&& 0xF0#8 = 0xC0#8 := by decide
  exact h a
theorem init : Statement .init := reqOpSel_mkReq _ (by decide) _ _ _
theorem deinit : Statement .deinit := reqOpSel_mkReq _ (by decide) _ _ _
theorem setbrt (level : Byte) : Statement (.setbrt level) := reqOpSel_mkReq _ (by decide) _ _ _
theorem seton (on : Bool) : Statement (.seton on) := reqOpSel_mkReq _ (by decide) _ _ _
theorem clear : Statement .clear := reqOpSel_mkReq _ (by decide) _ _ _
theorem wrgrid (address data : Byte) : Statement (.wrgrid address data) := reqOpSel_mkReq _ (by decide) _ _ _
theorem wrarr (start length : Byte) (data : List Byte) : Statement (.wrarr start length data) :=
  reqOpSel_mkReq _ (by decide) _ _ _
theorem getbuf (address : Byte) : Statement (.getbuf address) := reqOpSel_mkReq _ (by decide) _ _ _
theorem setbuf (address data : Byte) : Statement (.setbuf address data) := reqOpSel_mkReq _ (by decide) _ _ _
theorem setbit (address mask : Byte) (set : Bool) : Statement (.setbit address mask set) :=
  reqOpSel_mkReq _ (by decide) _ _ _
theorem flush : Statement .flush := reqOpSel_mkReq _ (by decide) _ _ _
theorem digit (d : Byte) : Statement (.digit d) := reqOpSel_mkReq _ (by decide) _ _ _
theorem hex (h : Byte) : Statement (.hex h) := reqOpSel_mkReq _ (by decide) _ _ _
theorem char (c : Byte) : Statement (.char c) := reqOpSel_mkReq _ (by decide) _ _ _
theorem test : Statement .test := reqOpSel_mkReq _ (by decide) _ _ _
theorem reserved15 : Statement .reserved15 := reqOpSel_mkReq _ (by decide) _ _ _
theorem delay : Statement .delay := trivial
theorem driveClock (v : Bool) : Statement (.driveClock v) := trivial
theorem driveData (v : Bool) : Statement (.driveData v) := trivial
theorem start : Statement .start := trivial
theorem stop : Statement .stop := trivial
theorem writeByte (b : Byte) : Statement (.writeByte b) := trivial
theorem sendCommand (b : Byte) : Statement (.sendCommand b) := trivial
theorem writeAddress (a : GridAddr) : Statement (.writeAddress a) := trivial
theorem writeBlock (a : GridAddr) (bytes : List Byte) : Statement (.writeBlock a bytes) := trivial
theorem releaseLines : Statement .releaseLines := trivial
theorem buildDataCommand (addressing : Addressing) : Statement (.buildDataCommand addressing) := trivial
theorem buildDisplayControl (enabled : Bool) (brightness : Byte) : Statement (.buildDisplayControl enabled brightness) :=
  trivial
theorem buildAddress (a : GridAddr) : Statement (.buildAddress a) := trivial

end MatchesTable

end Sys2Proof.Laws
end

