-- ==== Sys2Proof/Tests/Slice0.lean ====
section
/-! SUPPORT. Small tests, their expected values from spec/: 95_test_vectors.md (V-…, S-…), 30_encoding.md (the encoding
tables). One step each, one or two fields of the result. The last section shows, for every obligation with hypotheses, a
state and operands that meet them. -/

namespace Sys2Proof.Tests

open Sys2Proof.Machine

/-! ### Helpers -/

/-- A state with `LIFE = ACTIVE`, the bus idle, `EN` true and `BRT` 7. -/
def active : State :=
  { State.reset with
    life := .active, en := true, brt := 7#3, trace := [.dat true, .clk true]
    wire := { Wire.reset with clk := .high, dat := .high } }

/-- `active` with `BUF[2] = v`. -/
def cell2 (v : Byte) : State := active.setBuf (active.buf.write 2 v)

/-- A part of the next state, when there is one. -/
def part {α : Type} (f : State → α) : Host.Outcome State Fault Refusal → Option α
  | .next t => some (f t)
  | _ => none

/-- The reason of a refusal, when it is one. -/
def reason : Host.Outcome State Fault Refusal → Option Refusal
  | .refused r => some r
  | _ => none

/-- The number of events that a step from `active` appends. -/
def added (o : Host.Outcome State Fault Refusal) : Option Nat := part (fun t => t.trace.length - active.trace.length) o

/-! ### Well-formedness: each check refuses an ill-formed term -/

/-- R105: seven bytes asked for from grid 10, six are needed, three are given (V-DRV-11). -/
theorem test_wellFormed_wrarr_short : wellFormed (.wrarr 0x0A#8 0x07#8 [0x01#8, 0x02#8, 0x03#8]) = false := by decide
/-- R105: six bytes are enough, and none is needed when `start >= 16`. -/
theorem test_wellFormed_wrarr : wellFormed (.wrarr 0x0A#8 0x07#8 (List.replicate 6 0x01#8)) = true ∧
    wellFormed (.wrarr 0x10#8 0x01#8 []) = true := by decide
/-- R78: two bytes from grid 15 do not fit. -/
theorem test_wellFormed_writeBlock_long : wellFormed (.writeBlock 15 [0x01#8, 0x02#8]) = false := by decide
theorem test_wellFormed_writeBlock : wellFormed (.writeBlock 15 [0x01#8]) = true := by decide

/-! ### Decoding: each constructor's word, written out from 30_encoding.md R53 and R61 -/

theorem test_decode_dataAuto : decode (.wire 0b01000000#8) = some .dataAuto := by decide
theorem test_decode_dataFixed : decode (.wire 0b01000100#8) = some .dataFixed := by decide
theorem test_decode_dispOff : decode (.wire 0b10000000#8) = some .dispOff := by decide
theorem test_decode_dispOn : decode (.wire 0b10001101#8) = some (.dispOn 5#3) := by decide
theorem test_decode_addr : decode (.wire 0b11001010#8) = some (.addr 10) := by decide
/-- R63: bytes that are never produced as a command byte. -/
theorem test_decode_no_command : decode (.wire 0x41#8) = none ∧ decode (.wire 0x81#8) = none ∧
    decode (.wire 0xD0#8) = none ∧ decode (.wire 0x3F#8) = none := by decide
theorem test_decode_init : decode (.host ⟨0x0000000#28, []⟩) = some .init := by decide
theorem test_decode_deinit : decode (.host ⟨0x1000000#28, []⟩) = some .deinit := by decide
theorem test_decode_setbrt : decode (.host ⟨0x20A0000#28, []⟩) = some (.setbrt 0x0A#8) := by decide
/-- R60: "true when its byte is not zero" (V-DRV-27). -/
theorem test_decode_seton : decode (.host ⟨0x3020000#28, []⟩) = some (.seton true) ∧
    decode (.host ⟨0x3000000#28, []⟩) = some (.seton false) := by decide
theorem test_decode_clear : decode (.host ⟨0x4000000#28, []⟩) = some .clear := by decide
theorem test_decode_wrgrid : decode (.host ⟨0x5035B00#28, []⟩) = some (.wrgrid 0x03#8 0x5B#8) := by decide
theorem test_decode_wrarr :
    decode (.host ⟨0x60F0200#28, [0x09#8]⟩) = some (.wrarr 0x0F#8 0x02#8 [0x09#8]) := by decide
theorem test_decode_getbuf : decode (.host ⟨0x7FF0000#28, []⟩) = some (.getbuf 0xFF#8) := by decide
theorem test_decode_setbuf : decode (.host ⟨0x8023F00#28, []⟩) = some (.setbuf 0x02#8 0x3F#8) := by decide
theorem test_decode_setbit : decode (.host ⟨0x9024001#28, []⟩) = some (.setbit 0x02#8 0x40#8 true) := by decide
/-- R60: "Fields an operation does not use are ignored". -/
theorem test_decode_flush : decode (.host ⟨0xA123456#28, [0x01#8]⟩) = some .flush := by decide
theorem test_decode_digit : decode (.host ⟨0xB0A0000#28, []⟩) = some (.digit 0x0A#8) := by decide
theorem test_decode_hex : decode (.host ⟨0xC100000#28, []⟩) = some (.hex 0x10#8) := by decide
theorem test_decode_char : decode (.host ⟨0xD2D0000#28, []⟩) = some (.char 0x2D#8) := by decide
theorem test_decode_test : decode (.host ⟨0xE000000#28, []⟩) = some .test := by decide
theorem test_decode_reserved15 : decode (.host ⟨0xF000000#28, []⟩) = some .reserved15 := by decide
/-- The table's words: 8 bits for a wire command byte, 28 (32 in whole bytes) for a host request, none of width 0. -/
theorem test_decodeTableWord : decodeTableWord 8 0x8D = some (.dispOn 5#3) ∧
    decodeTableWord 28 0x9024001 = some (.setbit 0x02#8 0x40#8 true) ∧
    decodeTableWord 32 0x9024001 = some (.setbit 0x02#8 0x40#8 true) ∧ decodeTableWord 0 0 = none := by decide
/-- A word above the row's width is no request. -/
theorem test_decodeTableWord_wide : decodeTableWord 8 0x140 = none ∧ decodeTableWord 28 0x10000000 = none := by decide

/-! ### The step -/

/-- The first instruction after reset: `init()` placed as a table word (V-DRV-1). -/
theorem test_step_init_from_reset :
    part (fun t => (t.life, t.en, t.brt)) (step (State.reset.withFetchWord 28 0x0000000)) =
      some (.active, true, 7#3) := by decide
/-- P5: a pattern lookup is admitted from reset, a buffer write is not. -/
theorem test_step_from_reset : part (·.result) (step (State.reset.withFetchWord 28 0xC0C0000)) = some 0x39#8 ∧
    reason (step (State.reset.withFetchWord 28 0x8000100)) = some (.notActive .uninit) := by decide

/-- 20_memory.md R43, log 11: a second START between the last bit of a byte and the STOP leaves no frame of whole bytes. -/
theorem test_frames_second_start :
    frames ([.dat true, .clk true] ++ startEvents ++ byteEvents 0x80#8 ++ [.dat false, .dat true]) = [] := by decide

/-! ### Host operations -/

/-- V-DRV-1: 954 events; the buffer is zero whatever it held. -/
theorem test_init : part (fun t => (t.buf, t.life)) (exec .init (cell2 0x5B#8)) = some ([], .active) := by decide
set_option maxRecDepth 20000 in
theorem test_init_events : added (exec .init active) = some 954 := by decide
/-- V-DRV-29. -/
theorem test_deinit : part (fun t => (t.en, t.life, t.trace.getLast?)) (exec .deinit active) =
    some (false, .released, some .rel) := by decide
set_option maxRecDepth 20000 in
theorem test_deinit_lines : part (fun t => (t.clk, t.dat)) (exec .deinit active) = some (.unknown, .unknown) := by decide
/-- V-DRV-24: the low three bits. -/
theorem test_setbrt : part (fun t => (t.brt, t.en)) (exec (.setbrt 0x0A#8) active) = some (2#3, true) := by decide
/-- V-DRV-25: with `EN = false` the byte is `0x80`. -/
theorem test_setbrt_off : part (fun t => frames t.trace) (exec (.setbrt 0x05#8) (active.setEn false)) =
    some [[0x80#8]] := by decide
/-- V-DRV-26: switching on sends the remembered brightness. -/
theorem test_seton : part (fun t => frames t.trace) (exec (.seton true) (active.setBrt 5#3)) = some [[0x8D#8]] := by decide
theorem test_seton_off : part (fun t => (t.en, t.brt)) (exec (.seton false) active) = some (false, 7#3) := by decide
/-- V-DRV-22. -/
theorem test_clear : part (fun t => (t.buf, t.en, t.brt)) (exec .clear (cell2 0x5B#8)) = some ([], true, 7#3) := by decide
set_option maxRecDepth 20000 in
theorem test_clear_events : added (exec .clear active) = some 892 := by decide
/-- V-DRV-2. -/
theorem test_wrgrid : part (fun t => (t.buf, frames t.trace)) (exec (.wrgrid 0x03#8 0x5B#8) active) =
    some ([(3, 0x5B#8)], [[0x44#8], [0xC3#8, 0x5B#8]]) := by decide
/-- V-DRV-4: no change, no event. -/
theorem test_wrgrid_outside : part (fun t => (t.buf, t.trace)) (exec (.wrgrid 0x10#8 0xAA#8) active) =
    some ([], active.trace) := by decide
/-- V-DRV-10: the count is clamped to 6, without wrap-around. -/
theorem test_wrarr : part (fun t => t.buf)
    (exec (.wrarr 0x0A#8 0xFA#8 [0x01#8, 0x02#8, 0x03#8, 0x04#8, 0x05#8, 0x06#8, 0x07#8]) active) =
    some [(10, 0x01#8), (11, 0x02#8), (12, 0x03#8), (13, 0x04#8), (14, 0x05#8), (15, 0x06#8)] := by decide
/-- V-DRV-7: a count of zero sends the data command and the address alone. -/
theorem test_wrarr_zero : part (fun t => frames t.trace) (exec (.wrarr 0x0F#8 0x00#8 [0x09#8]) active) =
    some [[0x40#8], [0xCF#8]] := by decide
/-- V-DRV-14. -/
theorem test_getbuf : part (·.result) (exec (.getbuf 0x02#8) (cell2 0x3F#8)) = some 0x3F#8 := by decide
/-- V-DRV-13. -/
theorem test_getbuf_outside : part (·.result) (exec (.getbuf 0xFF#8) (cell2 0x3F#8)) = some 0x00#8 := by decide
/-- V-DRV-14: staged, no event. -/
theorem test_setbuf : part (fun t => (t.buf, t.trace)) (exec (.setbuf 0x02#8 0x3F#8) active) =
    some ([(2, 0x3F#8)], active.trace) := by decide
/-- V-DRV-15. -/
theorem test_setbuf_outside : part (·.buf) (exec (.setbuf 0x10#8 0xAA#8) active) = some [] := by decide
/-- V-DRV-19. -/
theorem test_setbit : part (·.buf) (exec (.setbit 0x02#8 0x81#8 true) (cell2 0x3F#8)) = some [(2, 0xBF#8)] := by decide
/-- V-DRV-17. -/
theorem test_setbit_clear : part (·.buf) (exec (.setbit 0x02#8 0x40#8 false) (cell2 0x7F#8)) =
    some [(2, 0x3F#8)] := by decide
set_option maxRecDepth 20000 in
/-- V-DRV-21: 892 events, the buffer unchanged. -/
theorem test_flush : part (fun t => (t.buf, t.trace.length)) (exec .flush (cell2 0x3F#8)) =
    some ([(2, 0x3F#8)], 894) := by decide
/-- V-DRV-28. -/
theorem test_test : part (fun t => (t.buf.read 0, t.buf.read 15, t.en)) (exec .test active) =
    some (0xFF#8, 0xFF#8, true) := by decide
/-- V-DRV-32 and V-DRV-11: the two cases of the host side without a meaning in ACTIVE. -/
theorem test_refusals : reason (exec .reserved15 active) = some .reservedOpSel ∧
    reason (exec (.wrarr 0x0A#8 0x07#8 [0x01#8, 0x02#8, 0x03#8]) active) = some .payloadTooShort := by decide

/-! ### Pattern lookups -/

/-- V-PAT-1: the value the source gives. -/
theorem test_digit : part (·.result) (exec (.digit 0x07#8) State.reset) = some 0x07#8 := by decide
/-- V-PAT-2. -/
theorem test_digit_clamp : part (·.result) (exec (.digit 0xFF#8) State.reset) = some 0x6F#8 := by decide
/-- V-PAT-4. -/
theorem test_hex : part (·.result) (exec (.hex 0x0F#8) State.reset) = some 0x71#8 := by decide
/-- V-PAT-5. -/
theorem test_hex_blank : part (·.result) (exec (.hex 0x10#8) State.reset) = some 0x00#8 := by decide
/-- V-PAT-9, V-PAT-10, V-PAT-6. -/
theorem test_char : part (·.result) (exec (.char 0x2D#8) State.reset) = some 0x40#8 ∧
    part (·.result) (exec (.char 0x5F#8) State.reset) = some 0x08#8 ∧
    part (·.result) (exec (.char 0x39#8) State.reset) = some 0x6F#8 := by decide
/-- V-PAT-8: letters of both cases read the last entry, whatever it is. -/
theorem test_char_letter : charGlyph 0x5A#8 = Config.letterTable 25 ∧ charGlyph 0x7A#8 = Config.letterTable 25 :=
  ⟨rfl, rfl⟩

/-! ### Bus primitives and encoder functions -/

/-- V-BUS-1. -/
theorem test_start : waveform (.high, .high) startEvents =
    [(.high, .high), (.high, .high), (.high, .high), (.high, .low), (.high, .low), (.low, .low), (.low, .low)] := by
  decide
/-- V-BUS-2. -/
theorem test_stop : waveform (.high, .high) stopEvents =
    [(.low, .high), (.low, .low), (.low, .low), (.high, .low), (.high, .low), (.high, .high), (.high, .high)] := by
  decide
/-- V-BUS-3: the data line per cell, bit 0 first. -/
theorem test_writeByte : (byteEvents 0x8D#8).filterMap (fun e => match e with | .dat v => some v | _ => none) =
    [true, false, true, true, false, false, false, true] := by decide
theorem test_writeByte_events : added (exec (.writeByte 0x8D#8) active) = some 48 := by decide
/-- R71, R72, R79. -/
theorem test_delay : part (fun t => t.trace.getLast?) (exec .delay active) = some (some .dly) := by decide
theorem test_driveClock : part (fun t => (t.clk, t.dat)) (exec (.driveClock false) active) = some (.low, .high) := by decide
theorem test_driveData : part (fun t => (t.clk, t.dat)) (exec (.driveData false) active) = some (.high, .low) := by decide
theorem test_releaseLines : part (fun t => (t.clk, t.dat)) (exec .releaseLines active) =
    some (.unknown, .unknown) := by decide
/-- V-BUS-4. -/
theorem test_sendCommand : part (fun t => frames t.trace) (exec (.sendCommand 0x8D#8) active) = some [[0x8D#8]] := by decide
/-- R77: `writeAddress(3)` is `writeByte(0xC3)`. -/
theorem test_writeAddress : part (fun t => t.trace.drop 2) (exec (.writeAddress 3) active) =
    some (byteEvents 0xC3#8) := by decide
/-- V-BUS-5. -/
theorem test_writeBlock : part (fun t => frames t.trace) (exec (.writeBlock 15 [0x81#8]) active) =
    some [[0xCF#8, 0x81#8]] := by decide
theorem test_writeBlock_long : reason (exec (.writeBlock 15 [0x81#8, 0x82#8]) active) = some .blockTooLong := by decide
/-- V-ENC-1, V-ENC-2. -/
theorem test_buildDataCommand : part (·.encRet) (exec (.buildDataCommand .autoIncrement) active) = some 0x40#8 ∧
    part (·.encRet) (exec (.buildDataCommand .fixed) active) = some 0x44#8 := by decide
/-- S-5, V-ENC-5. -/
theorem test_buildDisplayControl : part (·.encRet) (exec (.buildDisplayControl true 0x0D#8) active) = some 0x8D#8 ∧
    part (·.encRet) (exec (.buildDisplayControl false 0xFF#8) active) = some 0x80#8 := by decide
/-- V-ENC-6. -/
theorem test_buildAddress : part (·.encRet) (exec (.buildAddress 10) active) = some 0xCA#8 := by decide

/-! ### Wire command bytes (20_memory.md R46) -/

set_option maxRecDepth 20000 in
theorem test_dataAuto : part (·.dev.mode) (exec .dataAuto active) = some .autoIncrement := by decide
set_option maxRecDepth 20000 in
theorem test_dataFixed : part (·.dev.mode) (exec .dataFixed active) = some .fixed := by decide
set_option maxRecDepth 20000 in
theorem test_dispOff : part (fun t => (t.dev.on, t.dev.level)) (exec .dispOff active) = some (false, 0#3) := by decide
set_option maxRecDepth 20000 in
theorem test_dispOn : part (fun t => (t.dev.on, t.dev.level)) (exec (.dispOn 5#3) active) = some (true, 5#3) := by decide
set_option maxRecDepth 20000 in
theorem test_addr : part (·.dev.ptr) (exec (.addr 10) active) = some 10 := by decide

/-! ### Witnesses: every obligation's hypotheses are met -/

/-- `active` meets the invariant, with `LIFE = ACTIVE` and a canonical buffer. -/
theorem witness_active : MachineInvariant active ∧ active.life = .active ∧ active.buf.wf = true ∧
    active.wire.rx = none := by decide

/-- `cell2 0x3F` meets it too, with a cell that is not zero. -/
theorem witness_cell2 : MachineInvariant (cell2 0x3F#8) ∧ (cell2 0x3F#8).life = .active ∧
    (cell2 0x3F#8).buf.wf = true := by decide

theorem witness_DecodeOfEncodeIsTheInstruction :
    encode (.setbit 0x02#8 0x40#8 true) = some (.host ⟨0x9024001#28, []⟩) ∧ encode (.dispOn 5#3) = some (.wire 0x8D#8) := by
  decide

/-- A host request for the first clause, a command byte on the test bench for the second. -/
theorem witness_StepPerformsTheDecodedRequest :
    (active.place (.host ⟨0x5035B00#28, []⟩)).port = { host := [⟨0x5035B00#28, []⟩], bench := none } ∧
    decode (.host ⟨0x5035B00#28, []⟩) = some (.wrgrid 0x03#8 0x5B#8) ∧
    (active.place (.wire 0xCA#8)).port.bench = some 0xCA#8 ∧ decode (.wire 0xCA#8) = some (.addr 10) := by decide

theorem witness_TableWordRunsAtTheNextStep : decodeTableWord 28 0x5035B00 = some (.wrgrid 0x03#8 0x5B#8) ∧
    decodeTableWord 8 0xCA = some (.addr 10) ∧ active.port.bench = none := by decide

theorem witness_StepWithoutAnOperation : active.port = Port.empty ∧
    (active.place (.wire 0x41#8)).port.bench = some 0x41#8 ∧ isCommandByte 0x41#8 = false := by decide

/-- A host that waits, and one that requests `init()` right after reset. -/
theorem witness_HostRequestsPerformOnlyHostOperations :
    (active.port.bench = none ∧ ∃ t, step active = .next t) ∧
    ((State.reset.place (.host ⟨0x0000000#28, []⟩)).port.bench = none ∧
      ∃ t, step (State.reset.place (.host ⟨0x0000000#28, []⟩)) = .next t) :=
  ⟨⟨by decide, _, rfl⟩, by decide, _, rfl⟩

/-- A request with an operation that goes on, and one with no event. -/
theorem witness_EveryStepKeepsTheMachineInvariant :
    (MachineInvariant (active.place (.host ⟨0xA000000#28, []⟩)) ∧
      ∃ t, step (active.place (.host ⟨0xA000000#28, []⟩)) = .next t) ∧ ∃ t, step active = .next t := by
  exact ⟨⟨by decide, _, rfl⟩, _, rfl⟩

/-- Two states that differ in the observer. -/
theorem witness_DeviceIsInvisibleToTheEngine :
    active.SameButObserver { active with wire := { active.wire with dev := { Device.powerOn with on := true } } } ∧
    active ≠ { active with wire := { active.wire with dev := { Device.powerOn with on := true } } } := by
  refine ⟨⟨rfl, rfl, rfl, rfl, rfl, rfl, rfl, rfl, rfl, rfl, rfl⟩, by decide⟩

theorem witness_AdmittedOperationsComplete :
    (wellFormed .flush = true ∧ Instr.flush ≠ .reserved15 ∧ (needsActive .flush = true → active.life = .active)) ∧
    (wellFormed .init = true ∧ Instr.init ≠ .reserved15 ∧ (needsActive .init = true → State.reset.life = .active)) ∧
    (wellFormed (.writeBlock 15 [0x01#8]) = true ∧ Instr.writeBlock 15 [0x01#8] ≠ .reserved15 ∧
      (needsActive (.writeBlock 15 [0x01#8]) = true → State.reset.life = .active)) := by decide

theorem witness_LifeChangesOnlyByInitAndDeinit :
    (∃ t, exec .init State.reset = .next t) ∧ (∃ t, exec .deinit active = .next t) ∧
    (Instr.flush ≠ .init ∧ Instr.flush ≠ .deinit ∧ ∃ t, exec .flush active = .next t) ∧
    (needsActive (.getbuf 0x00#8) = true ∧ State.reset.life ≠ .active) := by
  exact ⟨⟨_, rfl⟩, ⟨_, rfl⟩,
    ⟨by decide, by decide, _, rfl⟩, by decide, by decide⟩

/-- Each clause, for an operation outside its column; and operations inside every column go on as well. -/
theorem witness_StateIsWrittenOnlyByItsOperations :
    (∃ t, exec .flush active = .next t) ∧ writesBuffer .flush = false ∧ writesEnable .flush = false ∧
    writesBrightness .flush = false := by
  exact ⟨⟨_, rfl⟩, by decide, by decide, by decide⟩

theorem witness_OperationsAppendAtMost954Events : ∃ t, exec .init State.reset = .next t := ⟨_, rfl⟩

/-- The payload one byte too short, at both ends of `start`; the block one byte too long, at both ends of `a`. -/
theorem witness_CasesWithoutMeaningAreRefused : active.life = .active ∧
    ((0x0F#8).toNat < 16 ∧ ([] : List Byte).length < min (0x01#8).toNat (16 - (0x0F#8).toNat)) ∧
    ((0x00#8).toNat < 16 ∧ (List.replicate 15 (0x01#8)).length < min (0xFF#8).toNat (16 - (0x00#8).toNat)) ∧
    16 < (15 : GridAddr).val + [0x01#8, 0x02#8].length ∧
    16 < (0 : GridAddr).val + (List.replicate 17 (0x01#8)).length := by decide

theorem witness_WriteBlockIsOneDataFrame : (15 : GridAddr).val + [0x01#8].length ≤ 16 ∧
    (0 : GridAddr).val + (List.replicate 16 (0x01#8)).length ≤ 16 ∧ (15 : GridAddr).val + ([] : List Byte).length ≤ 16 := by
  decide

theorem witness_WireCommandBytesReachTheDevice : State.reset.wire.rx = none := by decide

theorem witness_InitBringsTheKnownStartState : State.reset.buf.wf = true ∧ (cell2 0x3F#8).buf.wf = true := by decide

/-- For `deinit`, `setBrightness`, `setDisplayOn`, `flush` and `getBuffer`: `LIFE = ACTIVE`. -/
theorem witness_DeinitSwitchesOffAndReleases : active.life = .active := by decide
theorem witness_SetBrightnessStoresLowThreeBits : active.life = .active := by decide
theorem witness_SetDisplayOnSendsTheDisplayControl : active.life = .active ∧ active.wire.rx = none := by decide
theorem witness_FlushSendsTheWholeBuffer : (cell2 0x3F#8).life = .active := by decide

theorem witness_ClearZeroesBufferInOneTransaction : (cell2 0x3F#8).life = .active ∧ (cell2 0x3F#8).buf.wf = true := by
  decide
theorem witness_TestLightsEverySegment : (cell2 0x3F#8).life = .active ∧ (cell2 0x3F#8).buf.wf = true := by decide

/-- The last address that names a cell, and the first that names none. -/
theorem witness_WriteGridWritesOneCellOrNothing : active.life = .active ∧ active.buf.wf = true ∧
    (15 : GridAddr).val = (0x0F#8).toNat ∧ 16 ≤ (0x10#8).toNat ∧ 16 ≤ (0xFF#8).toNat := by decide
theorem witness_SetBufferStagesOneCell : active.life = .active ∧ active.buf.wf = true ∧
    (15 : GridAddr).val = (0x0F#8).toNat ∧ 16 ≤ (0x10#8).toNat := by decide
theorem witness_SetBufferBitChangesMaskedBitsOnly : (cell2 0x3F#8).life = .active ∧ (cell2 0x3F#8).buf.wf = true ∧
    (15 : GridAddr).val = (0x0F#8).toNat ∧ 16 ≤ (0x10#8).toNat := by decide
theorem witness_GetBufferReturnsTheCell : (cell2 0x3F#8).life = .active ∧ (15 : GridAddr).val = (0x0F#8).toNat ∧
    16 ≤ (0x10#8).toNat := by decide

/-- V-DRV-6, V-DRV-7 and V-DRV-9: a clamped run, a count of zero, the whole buffer. -/
theorem witness_WriteGridArrayWritesTheClampedRun : active.life = .active ∧ active.buf.wf = true ∧
    ((10 : GridAddr).val = (0x0A#8).toNat ∧ 6 = min (0x07#8).toNat (16 - (0x0A#8).toNat) ∧
      6 ≤ (List.replicate 7 (0x01#8)).length) ∧
    ((15 : GridAddr).val = (0x0F#8).toNat ∧ 0 = min (0x00#8).toNat (16 - (0x0F#8).toNat) ∧ 0 ≤ [0x09#8].length) ∧
    ((0 : GridAddr).val = (0x00#8).toNat ∧ 16 = min (0x10#8).toNat (16 - (0x00#8).toNat) ∧
      16 ≤ (List.replicate 16 (0x11#8)).length) := by decide
theorem witness_WriteGridArrayOutsideTheGridsDoesNothing : active.life = .active ∧ 16 ≤ (0x10#8).toNat ∧
    16 ≤ (0xFF#8).toNat := by decide

/-- The boundaries of the three ranges of `hexPattern`. -/
theorem witness_HexPatternReadsTwoTables : (0x09#8).toNat ≤ 9 ∧ (10 ≤ (0x0A#8).toNat ∧ (0x0A#8).toNat ≤ 15) ∧
    (10 ≤ (0x0F#8).toNat ∧ (0x0F#8).toNat ≤ 15) ∧ 15 < (0x10#8).toNat := by decide

/-- The boundaries of the ranges of `charPattern`. -/
theorem witness_CharPatternReadsTheGlyph :
    (0x30 ≤ (0x30#8).toNat ∧ (0x30#8).toNat ≤ 0x39) ∧ (0x30 ≤ (0x39#8).toNat ∧ (0x39#8).toNat ≤ 0x39) ∧
    (0x41#8).toNat = 0x41 + (0 : Fin 26).val ∧ (0x7A#8).toNat = 0x61 + (25 : Fin 26).val ∧ (0x2D#8).toNat = 0x2D ∧
    (0x5F#8).toNat = 0x5F ∧ ((0x2F#8).toNat < 0x30 ∧ (0x2F#8).toNat ≠ 0x2D) ∧
    (0x3A ≤ (0x40#8).toNat ∧ (0x40#8).toNat ≤ 0x40) ∧
    (0x5B ≤ (0x60#8).toNat ∧ (0x60#8).toNat ≤ 0x60 ∧ (0x60#8).toNat ≠ 0x5F) ∧ 0x7B ≤ (0x7B#8).toNat := by decide

theorem witness_PatternLookupsAgree : 0x61 ≤ (0x61#8).toNat ∧ (0x7A#8).toNat ≤ 0x7A := by decide

theorem witness_BuildDisplayControlMasksTheBrightness : (exec (.buildDisplayControl true 0x0D#8) State.reset =
    .next (State.reset.setEncRet 0x8D#8)) ∧ (exec (.buildDisplayControl false 0x0D#8) State.reset =
    .next (State.reset.setEncRet 0x80#8)) := ⟨rfl, rfl⟩

theorem witness_HostOperationsAddTheirFrames : MachineInvariant active ∧ isHostOperation (.wrgrid 0x03#8 0x5B#8) = true ∧
    ∃ t, exec (.wrgrid 0x03#8 0x5B#8) active = .next t :=
  ⟨witness_active.1, by decide, _, rfl⟩

theorem witness_WholeBufferOperationsMakeDeviceEqualBuffer : MachineInvariant (cell2 0x3F#8) ∧
    (∃ t, exec .init (cell2 0x3F#8) = .next t) ∧ (∃ t, exec .clear (cell2 0x3F#8) = .next t) ∧
    (∃ t, exec .flush (cell2 0x3F#8) = .next t) ∧ ∃ t, exec .test (cell2 0x3F#8) = .next t :=
  ⟨witness_cell2.1, ⟨_, rfl⟩, ⟨_, rfl⟩, ⟨_, rfl⟩, _,
    rfl⟩

/-- Grid 15; a run of six from grid 10, with a cell inside it and one before it. -/
theorem witness_GridWritesSendOnlyTheirCells : MachineInvariant active ∧
    ((15 : GridAddr).val = (0x0F#8).toNat ∧ ∃ t, exec (.wrgrid 0x0F#8 0x5B#8) active = .next t) ∧
    ((0x0A#8).toNat < 16 ∧ ∃ t, exec (.wrarr 0x0A#8 0x07#8 (List.replicate 6 0x01#8)) active = .next t) ∧
    ((0x0A#8).toNat ≤ (15 : GridAddr).val ∧
      (15 : GridAddr).val < (0x0A#8).toNat + min (0x07#8).toNat (16 - (0x0A#8).toNat)) ∧
    (9 : GridAddr).val < (0x0A#8).toNat :=
  ⟨witness_active.1, ⟨by decide, _, rfl⟩, ⟨by decide, _, rfl⟩,
    by decide, by decide⟩

theorem witness_DisplayControlFollowsEnableAndBrightness : MachineInvariant active ∧
    (∃ t, exec .init active = .next t) ∧ (∃ t, exec .deinit active = .next t) ∧
    (∃ t, exec (.setbrt 0x05#8) active = .next t ∧ t.en = true) ∧ ∃ t, exec (.seton false) active = .next t ∧ t.en = false :=
  ⟨witness_active.1, ⟨_, rfl⟩, ⟨_, rfl⟩, ⟨_, rfl, rfl⟩, _,
    rfl, rfl⟩

theorem witness_StagedCellsReachTheDeviceAtFlush : MachineInvariant active ∧
    (∃ t, exec (.setbuf 0x02#8 0x3F#8) active = .next t ∧ ∃ u, exec .flush t = .next u) ∧
    ∃ t, exec (.setbit 0x02#8 0x40#8 true) active = .next t ∧ ∃ u, exec .flush t = .next u :=
  ⟨witness_active.1, ⟨_, rfl, _, rfl⟩, _,
    rfl, _, rfl⟩

theorem witness_GetBufferReturnsTheLastWrite : active.life = .active ∧ active.buf.wf = true ∧ (0x0F#8).toNat < 16 := by
  decide

/-- A mask set twice, and set then cleared (V-LAW-1: `x = 0x3F`, `m = 0x41`). -/
theorem witness_SetBufferBitLaws : (cell2 0x3F#8).buf.wf = true ∧
    ∃ t, exec (.setbit 0x02#8 0x41#8 true) (cell2 0x3F#8) = .next t ∧
      (∃ u, exec (.setbit 0x02#8 0x41#8 true) t = .next u) ∧ (∃ u, exec (.setbit 0x02#8 0x41#8 false) t = .next u) ∧
      ∃ w, exec (.setbit 0x02#8 0x41#8 false) (cell2 0x3F#8) = .next w :=
  ⟨by decide, _, rfl, ⟨_, rfl⟩,
    ⟨_, rfl⟩, _, rfl⟩

theorem witness_InitHidesTheResetValues : (cell2 0x3F#8).buf.wf = true ∧ Memory.wf [(2, 0x7F#8)] = true := by decide

end Sys2Proof.Tests
end

section
/-! SUPPORT. The step said once: what it takes and performs, and what each guarded driver operation can do when it goes
on (42_driver_api.md R100, R102 to R112). The proofs below cite these and do not unfold the operations again. -/

namespace Sys2Proof.Machine

variable {s s' t : State}

/-! ### The step -/

/-- With nothing on the test bench the step takes the host's oldest request. -/
theorem State.takeWord_host {r : Request} {rest : List Request} (h : s.port = { host := r :: rest, bench := none }) :
    s.takeWord = some (.host r, s.setPort { host := rest, bench := none }) := by
  simp [State.takeWord, h]

/-- A byte on the test bench is taken before any request. -/
theorem State.takeWord_bench {b : Byte} (h : s.port.bench = some b) : s.takeWord = some (.wire b, s.clearBench) := by
  simp [State.takeWord, h]

/-- The step with nothing to take leaves the state as it is. -/
theorem step_of_takeWord_none (h : s.takeWord = none) : step s = .next s := by
  simp [step, State.idle, h]

/-- The step on a word that decodes is the meaning of its instruction. -/
theorem step_of_decode {w : TableWord} {i : Instr} (h : s.takeWord = some (w, s')) (hd : decode w = some i) :
    step s = exec i s' := by
  simp [step, h, hd]

/-- The step on a word that does not decode is its refusal. -/
theorem step_of_decode_none {w : TableWord} (h : s.takeWord = some (w, s')) (hd : decode w = none) :
    step s = refuseWord w := by
  simp [step, h, hd]

/-- What a step takes changes only what is presented. -/
theorem State.takeWord_eq_setPort {w : TableWord} (h : s.takeWord = some (w, s')) : ∃ p, s' = s.setPort p := by
  obtain ⟨b, -, -, rfl⟩ | ⟨r, rest, -, -, rfl⟩ := State.takeWord_some h
  · exact ⟨_, rfl⟩
  · exact ⟨_, rfl⟩

/-- All that a step which goes on can do: wait, or perform the instruction that the word taken decodes to. -/
theorem step_next (h : step s = .next t) :
    t = s ∨ ∃ (w : TableWord) (i : Instr) (p : Port), decode w = some i ∧ exec i (s.setPort p) = .next t := by
  cases hw : s.takeWord with
  | none =>
    rw [step_of_takeWord_none hw] at h
    cases h
    exact .inl rfl
  | some taken =>
    obtain ⟨w, s'⟩ := taken
    obtain ⟨p, rfl⟩ := State.takeWord_eq_setPort hw
    cases hd : decode w with
    | none =>
      rw [step_of_decode_none hw hd] at h
      cases w <;> cases h
    | some i =>
      rw [step_of_decode hw hd] at h
      exact .inr ⟨w, i, p, hd, h⟩

/-- An instruction that some word decodes to has a word of its own: the internal operations are out of the step's reach
(30_encoding.md R62). -/
theorem encode_isSome_of_decode {w : TableWord} {i : Instr} (h : decode w = some i) : (encode i).isSome = true := by
  cases w with
  | host r =>
    cases h
    obtain hop | hres := decodeHost_spec r.req r.pay
    · rw [isHostOperation] at hop
      revert hop
      cases encode (decodeHost r.req r.pay) <;> simp
    · rw [hres]
      rfl
  | wire b =>
    simp only [decode, decodeWire] at h
    split_ifs at h <;> cases h <;> rfl

/-! ### Driver operations that go on -/

theorem gridAddr?_eq_some {b : Byte} {a : GridAddr} : gridAddr? b = some a ↔ a.val = b.toNat := by
  constructor
  · intro h
    rw [gridAddr?] at h
    split at h <;> cases h
    rfl
  · exact gridAddr?_some

theorem gridAddr?_eq_none {b : Byte} : gridAddr? b = none ↔ 16 ≤ b.toNat := by
  constructor
  · intro h
    rw [gridAddr?] at h
    split at h
    · cases h
    · omega
  · exact gridAddr?_none

/-- An admitted operation with one outcome. -/
theorem State.eq_of_whenActive_next {u : State} (h : s.whenActive (.next u) = .next t) : t = u := by
  obtain ⟨-, hu⟩ := State.whenActive_next h
  exact (Host.Outcome.next.inj hu).symm

/-- `writeGrid` is silent past grid 15, and otherwise writes one cell and sends it (R104). -/
theorem execWrgrid_next {address data : Byte} (h : execWrgrid address data s = .next t) :
    (16 ≤ address.toNat ∧ t = s.returnNothing) ∨
    ∃ a : GridAddr, a.val = address.toNat ∧
      t = (((s.setBuf (s.buf.write a data)).sendCommand (buildDataCommand .fixed)).writeBlock a
        [data]).returnNothing := by
  obtain ⟨-, hk⟩ := State.whenActive_next h
  split at hk
  · next hn =>
    obtain rfl := Host.Outcome.next.inj hk
    exact .inl ⟨gridAddr?_eq_none.mp hn, rfl⟩
  · next a hs =>
    obtain rfl := Host.Outcome.next.inj hk
    exact .inr ⟨a, gridAddr?_eq_some.mp hs, rfl⟩

/-- `writeGridArray` is silent past grid 15, and otherwise writes and sends the clamped run, which the payload holds
(R105). -/
theorem execWrarr_next {start length : Byte} {data : List Byte} (h : execWrarr start length data s = .next t) :
    (16 ≤ start.toNat ∧ t = s.returnNothing) ∨
    ∃ a : GridAddr, a.val = start.toNat ∧ runCount a length ≤ data.length ∧
      t = ((s.setBuf (s.buf.writeRun a.val (data.take (runCount a length)))).sendRun a
        (data.take (runCount a length))).returnNothing := by
  obtain ⟨-, hk⟩ := State.whenActive_next h
  split at hk
  · next hn =>
    obtain rfl := Host.Outcome.next.inj hk
    exact .inl ⟨gridAddr?_eq_none.mp hn, rfl⟩
  · next a hs =>
    split at hk
    · cases hk
    · next hlen =>
      obtain rfl := Host.Outcome.next.inj hk
      exact .inr ⟨a, gridAddr?_eq_some.mp hs, by omega, rfl⟩

/-- `getBuffer` returns the cell, and `0x00` past grid 15 (R106). -/
theorem execGetbuf_next {address : Byte} (h : execGetbuf address s = .next t) :
    (16 ≤ address.toNat ∧ t = s.returnByte 0x00#8) ∨
    ∃ a : GridAddr, a.val = address.toNat ∧ t = s.returnByte (s.buf.read a) := by
  obtain ⟨-, hk⟩ := State.whenActive_next h
  split at hk
  · next hn =>
    obtain rfl := Host.Outcome.next.inj hk
    exact .inl ⟨gridAddr?_eq_none.mp hn, rfl⟩
  · next a hs =>
    obtain rfl := Host.Outcome.next.inj hk
    exact .inr ⟨a, gridAddr?_eq_some.mp hs, rfl⟩

/-- `setBuffer` is silent past grid 15, and otherwise stages one cell (R107). -/
theorem execSetbuf_next {address data : Byte} (h : execSetbuf address data s = .next t) :
    (16 ≤ address.toNat ∧ t = s.returnNothing) ∨
    ∃ a : GridAddr, a.val = address.toNat ∧ t = (s.setBuf (s.buf.write a data)).returnNothing := by
  obtain ⟨-, hk⟩ := State.whenActive_next h
  split at hk
  · next hn =>
    obtain rfl := Host.Outcome.next.inj hk
    exact .inl ⟨gridAddr?_eq_none.mp hn, rfl⟩
  · next a hs =>
    obtain rfl := Host.Outcome.next.inj hk
    exact .inr ⟨a, gridAddr?_eq_some.mp hs, rfl⟩

/-- `setBufferBit` is silent past grid 15, and otherwise stages the masked bits of one cell (R108). -/
theorem execSetbit_next {address mask : Byte} {set : Bool} (h : execSetbit address mask set s = .next t) :
    (16 ≤ address.toNat ∧ t = s.returnNothing) ∨
    ∃ a : GridAddr, a.val = address.toNat ∧
      t = (s.setBuf (s.buf.write a
        (if set then setMasked (s.buf.read a) mask else clearMasked (s.buf.read a) mask))).returnNothing := by
  obtain ⟨-, hk⟩ := State.whenActive_next h
  split at hk
  · next hn =>
    obtain rfl := Host.Outcome.next.inj hk
    exact .inl ⟨gridAddr?_eq_none.mp hn, rfl⟩
  · next a hs =>
    cases set <;> cases hk <;> exact .inr ⟨a, gridAddr?_eq_some.mp hs, rfl⟩

/-- `writeBlock` on its own goes on only inside its operand range (40_bus_protocol.md R78). -/
theorem execWriteBlock_next {a : GridAddr} {bytes : List Byte} (h : execWriteBlock a bytes s = .next t) :
    a.val + bytes.length ≤ 16 ∧ t = s.writeBlock a bytes := by
  rw [execWriteBlock] at h
  split at h <;> cases h
  exact ⟨‹_›, rfl⟩

end Sys2Proof.Machine
end

section
/-! SUPPORT. The machine invariant: one rule per update of the state and per bus sequence, then each operation by
composing the rules in the operation's own order. -/

namespace Sys2Proof.Machine

variable {s t : State}

/-! ### Updates -/

theorem MachineInvariant.wf_buf (h : MachineInvariant s) : s.buf.wf = true := by
  obtain ⟨hbuf, -⟩ := h
  exact hbuf

theorem MachineInvariant.busIdle (h : MachineInvariant s) : s.life = .active → s.BusIdle := by
  obtain ⟨-, -, -, hidle, -⟩ := h
  exact hidle

/-- The invariant of a state with the same lines and trace: only the buffer and the idle bus are left to show. -/
theorem MachineInvariant.of_silent (h : MachineInvariant s) (hsilent : s.Silent t) (hbuf : t.buf.wf = true)
    (hidle : t.life = .active → s.BusIdle) : MachineInvariant t := by
  obtain ⟨-, hmem, hrx, -, hwire, hdev⟩ := h
  obtain ⟨htrace, hw⟩ := hsilent
  simp only [MachineInvariant, State.clk, State.dat, State.dev, hw, htrace]
  exact ⟨hbuf, hmem, hrx, hidle, hwire, hdev⟩

/-- The invariant of a state with the same buffer, lines, trace and `LIFE`. -/
theorem MachineInvariant.of_keeps (h : MachineInvariant s) (hsilent : s.Silent t) (hbuf : t.buf = s.buf)
    (hlife : t.life = s.life) : MachineInvariant t :=
  h.of_silent hsilent (hbuf ▸ h.wf_buf) fun ha => h.busIdle (hlife ▸ ha)

theorem MachineInvariant.setBuf (h : MachineInvariant s) {m : Memory} (hm : m.wf = true) :
    MachineInvariant (s.setBuf m) :=
  h.of_silent ⟨s.setBuf_trace m, s.setBuf_wire m⟩ hm (s.setBuf_life m ▸ h.busIdle)

theorem MachineInvariant.setBuf_write (h : MachineInvariant s) (a : GridAddr) (v : Byte) :
    MachineInvariant (s.setBuf (s.buf.write a v)) :=
  h.setBuf (Memory.wf_write h.wf_buf a v)

theorem MachineInvariant.fillBuffer (h : MachineInvariant s) (v : Byte) : MachineInvariant (s.fillBuffer v) :=
  h.setBuf (Memory.wf_fill h.wf_buf v)

theorem MachineInvariant.setEn (h : MachineInvariant s) (v : Bool) : MachineInvariant (s.setEn v) :=
  h.of_keeps ⟨s.setEn_trace v, s.setEn_wire v⟩ (s.setEn_buf v) (s.setEn_life v)

theorem MachineInvariant.setBrt (h : MachineInvariant s) (v : Brightness) : MachineInvariant (s.setBrt v) :=
  h.of_keeps ⟨s.setBrt_trace v, s.setBrt_wire v⟩ (s.setBrt_buf v) (s.setBrt_life v)

theorem MachineInvariant.setPort (h : MachineInvariant s) (p : Port) : MachineInvariant (s.setPort p) :=
  h.of_keeps ⟨s.setPort_trace p, s.setPort_wire p⟩ (s.setPort_buf p) (s.setPort_life p)

theorem MachineInvariant.returnByte (h : MachineInvariant s) (v : Byte) : MachineInvariant (s.returnByte v) :=
  h.of_keeps ⟨s.returnByte_trace v, s.returnByte_wire v⟩ (s.returnByte_buf v) (s.returnByte_life v)

theorem MachineInvariant.returnNothing (h : MachineInvariant s) : MachineInvariant s.returnNothing :=
  h.of_keeps ⟨s.returnNothing_trace, s.returnNothing_wire⟩ s.returnNothing_buf s.returnNothing_life

/-- ACTIVE is entered with the bus idle (10_state.md R24 b). -/
theorem MachineInvariant.setLife_active (h : MachineInvariant s) (hidle : s.BusIdle) :
    MachineInvariant (s.setLife .active) :=
  h.of_silent ⟨s.setLife_trace _, s.setLife_wire _⟩ h.wf_buf fun _ => hidle

/-! ### Frames and the release of the lines -/

/-- After a frame the bus is idle, whatever came before. -/
theorem State.busIdle_emits_frame (s : State) (bytes : List Byte) : (s.emits (frameEvents bytes)).BusIdle := by
  simp only [State.BusIdle, State.clk, State.dat, State.emits_wire]
  exact idle_after_frame bytes s.wire

/-- A frame is appended to the trace and to `frames(TRACE)`, and the observer takes exactly that frame (20_memory.md
R43, R44). -/
theorem MachineInvariant.emits_frame (h : MachineInvariant s) (bytes : List Byte) :
    MachineInvariant (s.emits (frameEvents bytes)) := by
  obtain ⟨hbuf, hmem, hrx, -, hwire, hdev⟩ := h
  have hafter := foldl_step_frame s.wire hrx bytes
  have hframes : frames (s.trace ++ frameEvents bytes) = frames s.trace ++ [bytes] :=
    frames_append_frame s.trace (hwire ▸ hrx) bytes
  refine ⟨hbuf, ?_, ?_, fun _ => s.busIdle_emits_frame bytes, ?_, ?_⟩
  · simpa [State.dev, hafter] using Device.wf_frame s.wire.dev hmem bytes
  · simp [hafter]
  · rw [State.emits_wire, State.emits_trace, List.foldl_append, ← hwire]
  · have hobserved : s.dev.frame bytes = observe Device.powerOn (frames s.trace ++ [bytes]) := by
      rw [hdev, observe, observe, List.foldl_append, List.foldl_cons, List.foldl_nil]
    simpa [State.dev, hafter, hframes] using hobserved

/-- Releasing the lines sends no frame; it leaves them unknown, and the invariant holds once `LIFE` is RELEASED
(R102). -/
theorem MachineInvariant.releaseLines_setLife (h : MachineInvariant s) :
    MachineInvariant (s.releaseLines.setLife .released) := by
  obtain ⟨hbuf, hmem, hrx, -, hwire, hdev⟩ := h
  refine ⟨?_, ?_, ?_, ?_, ?_, ?_⟩
  · simpa [State.releaseLines] using hbuf
  · simpa [State.dev, State.releaseLines] using hmem
  · simpa [State.releaseLines] using hrx
  · simp
  · simp [State.releaseLines, ← hwire]
  · simpa [State.dev, State.releaseLines, frames_append_rel] using hdev

theorem MachineInvariant.sendCommand (h : MachineInvariant s) (b : Byte) : MachineInvariant (s.sendCommand b) := by
  rw [State.sendCommand_eq]
  exact h.emits_frame [b]

theorem MachineInvariant.writeBlock (h : MachineInvariant s) (a : GridAddr) (bytes : List Byte) :
    MachineInvariant (s.writeBlock a bytes) := by
  rw [State.writeBlock_eq]
  exact h.emits_frame (buildAddress a :: bytes)

theorem MachineInvariant.sendRun (h : MachineInvariant s) (a : GridAddr) (bytes : List Byte) :
    MachineInvariant (s.sendRun a bytes) := by
  rw [State.sendRun]
  exact (h.sendCommand (buildDataCommand .autoIncrement)).writeBlock a bytes

theorem MachineInvariant.sendDisplayControl (h : MachineInvariant s) : MachineInvariant s.sendDisplayControl := by
  rw [State.sendDisplayControl]
  exact h.sendCommand (buildDisplayControl s.en (s.brt.setWidth 8))

theorem State.busIdle_sendDisplayControl (s : State) : s.sendDisplayControl.BusIdle := by
  rw [State.sendDisplayControl_eq]
  exact s.busIdle_emits_frame _

/-! ### Operations -/

/-- Every operation with a word, a host operation or a wire command byte, keeps the invariant. The internal operations
do not: a START on its own leaves a frame open. -/
theorem exec_keeps_machineInvariant (i : Instr) (hword : (encode i).isSome = true) (hinv : MachineInvariant s)
    (h : exec i s = .next t) : MachineInvariant t := by
  cases i with
  | dataAuto | dataFixed | dispOff | dispOn =>
    obtain rfl := Host.Outcome.next.inj h
    exact hinv.sendCommand _
  | addr a =>
    obtain rfl := Host.Outcome.next.inj h
    exact hinv.writeBlock a []
  | init =>
    obtain rfl := Host.Outcome.next.inj h
    refine (MachineInvariant.setLife_active ?_ (State.busIdle_sendDisplayControl _)).returnNothing
    exact ((((hinv.fillBuffer _).sendRun _ _).setEn true).setBrt Config.initBrightness).sendDisplayControl
  | deinit =>
    obtain rfl := State.eq_of_whenActive_next h
    exact (hinv.setEn false).sendDisplayControl.releaseLines_setLife.returnNothing
  | setbrt level =>
    obtain rfl := State.eq_of_whenActive_next h
    exact (hinv.setBrt (lowThree level)).sendDisplayControl.returnNothing
  | seton on =>
    obtain rfl := State.eq_of_whenActive_next h
    exact (hinv.setEn on).sendDisplayControl.returnNothing
  | clear | test =>
    obtain rfl := State.eq_of_whenActive_next h
    exact ((hinv.fillBuffer _).sendRun _ _).returnNothing
  | flush =>
    obtain rfl := State.eq_of_whenActive_next h
    exact (hinv.sendRun _ s.buf.bytes).returnNothing
  | wrgrid address data =>
    obtain ⟨-, rfl⟩ | ⟨a, -, rfl⟩ := execWrgrid_next h
    · exact hinv.returnNothing
    · exact (((hinv.setBuf_write a data).sendCommand _).writeBlock a [data]).returnNothing
  | wrarr start length data =>
    obtain ⟨-, rfl⟩ | ⟨a, -, -, rfl⟩ := execWrarr_next h
    · exact hinv.returnNothing
    · exact ((hinv.setBuf (Memory.wf_writeRun _ a.val hinv.wf_buf)).sendRun a _).returnNothing
  | getbuf =>
    obtain ⟨-, rfl⟩ | ⟨a, -, rfl⟩ := execGetbuf_next h <;> exact hinv.returnByte _
  | setbuf address data =>
    obtain ⟨-, rfl⟩ | ⟨a, -, rfl⟩ := execSetbuf_next h
    · exact hinv.returnNothing
    · exact (hinv.setBuf_write a data).returnNothing
  | setbit =>
    obtain ⟨-, rfl⟩ | ⟨a, -, rfl⟩ := execSetbit_next h
    · exact hinv.returnNothing
    · exact (hinv.setBuf_write a _).returnNothing
  | digit | hex | char =>
    obtain rfl := Host.Outcome.next.inj h
    exact hinv.returnByte _
  | reserved15 => cases h
  | delay | driveClock | driveData | start | stop | writeByte | sendCommand | writeAddress | writeBlock | releaseLines
  | buildDataCommand | buildDisplayControl | buildAddress => cases hword

/-- Settles O9: a step waits, or performs an operation with a word on a state that differs only in what is presented. -/
theorem everyStepKeepsTheMachineInvariant : Obligations.EveryStepKeepsTheMachineInvariant := by
  unfold Obligations.EveryStepKeepsTheMachineInvariant
  intro s t hinv hstep
  obtain rfl | ⟨w, i, p, hdecode, hexec⟩ := step_next hstep
  · exact hinv
  · exact exec_keeps_machineInvariant i (encode_isSome_of_decode hdecode) (hinv.setPort p) hexec

/-- Settles O8. -/
theorem resetMeetsTheInvariant : Obligations.ResetMeetsTheInvariant := by
  unfold Obligations.ResetMeetsTheInvariant
  have hnotActive : State.reset.life ≠ .active := by decide
  exact ⟨Memory.wf_nil, Memory.wf_nil, rfl, fun h => absurd h hnotActive, rfl, rfl⟩

end Sys2Proof.Machine
end

section
/-! SUPPORT. What the operations write and send: the registers of the block by their operations alone, and a bounded
list of events. -/

namespace Sys2Proof.Machine

variable {s t : State}

/-- The wire command bytes and the bus primitives, which drive the lines and do nothing else. -/
def drivesLinesOnly : Instr → Bool
  | .dataAuto | .dataFixed | .dispOff | .dispOn _ | .addr _ => true
  | .delay | .driveClock _ | .driveData _ | .start | .stop | .writeByte _ | .sendCommand _ | .writeAddress _
  | .writeBlock _ _ | .releaseLines => true
  | _ => false

/-- Such an operation emits events and changes nothing else; the longest is a block of 16 bytes. -/
theorem exec_next_of_drivesLinesOnly {i : Instr} (hi : drivesLinesOnly i = true) (h : exec i s = .next t) :
    ∃ es : List Event, t = s.emits es ∧ es.length ≤ 830 := by
  cases i with
  | dataAuto | dataFixed | dispOff | dispOn | sendCommand =>
    obtain rfl := Host.Outcome.next.inj h
    exact ⟨_, s.sendCommand_eq _, by simp [frameEvents_length]⟩
  | addr a =>
    obtain rfl := Host.Outcome.next.inj h
    exact ⟨_, s.writeBlock_eq a [], by simp [frameEvents_length]⟩
  | writeBlock a bytes =>
    obtain ⟨hfits, rfl⟩ := execWriteBlock_next h
    refine ⟨_, s.writeBlock_eq a bytes, ?_⟩
    rw [frameEvents_length, List.length_cons]
    omega
  | delay | driveClock | driveData | releaseLines =>
    obtain rfl := Host.Outcome.next.inj h
    exact ⟨_, rfl, by simp⟩
  | start | stop =>
    obtain rfl := Host.Outcome.next.inj h
    exact ⟨_, rfl, by decide⟩
  | writeByte | writeAddress =>
    obtain rfl := Host.Outcome.next.inj h
    exact ⟨_, rfl, by simp⟩
  | _ => cases hi

/-- Settles O17, by the inversion of each operation. -/
theorem stateIsWrittenOnlyByItsOperations : Obligations.StateIsWrittenOnlyByItsOperations := by
  unfold Obligations.StateIsWrittenOnlyByItsOperations
  intro i s t h
  cases i with
  | dataAuto | dataFixed | dispOff | dispOn | addr | delay | driveClock | driveData | start | stop | writeByte
  | sendCommand | writeAddress | writeBlock | releaseLines =>
    obtain ⟨es, rfl, -⟩ := exec_next_of_drivesLinesOnly rfl h
    simp [State.KeepsBuffer]
  | init =>
    obtain rfl := Host.Outcome.next.inj h
    simp [writesBuffer, writesEnable, writesBrightness, State.sendRun_eq, State.sendDisplayControl_eq]
  | deinit | setbrt | seton =>
    obtain rfl := State.eq_of_whenActive_next h
    simp [State.KeepsBuffer, writesEnable, writesBrightness, State.sendDisplayControl_eq, State.releaseLines]
  | clear | test | flush =>
    obtain rfl := State.eq_of_whenActive_next h
    simp [State.KeepsBuffer, writesBuffer, State.sendRun_eq]
  | wrgrid =>
    obtain ⟨-, rfl⟩ | ⟨a, -, rfl⟩ := execWrgrid_next h <;>
      simp [writesBuffer, State.sendCommand_eq, State.writeBlock_eq]
  | wrarr =>
    obtain ⟨-, rfl⟩ | ⟨a, -, -, rfl⟩ := execWrarr_next h <;> simp [writesBuffer, State.sendRun_eq]
  | setbuf =>
    obtain ⟨-, rfl⟩ | ⟨a, -, rfl⟩ := execSetbuf_next h <;> simp [writesBuffer]
  | setbit =>
    obtain ⟨-, rfl⟩ | ⟨a, -, rfl⟩ := execSetbit_next h <;> simp [writesBuffer]
  | getbuf =>
    obtain ⟨-, rfl⟩ | ⟨a, -, rfl⟩ := execGetbuf_next h <;> simp [State.KeepsBuffer]
  | digit | hex | char | buildDataCommand | buildDisplayControl | buildAddress =>
    obtain rfl := Host.Outcome.next.inj h
    simp [State.KeepsBuffer]
  | reserved15 => cases h

/-- A run sends two frames. -/
theorem State.sendRun_trace (s : State) (a : GridAddr) (bytes : List Byte) :
    (s.sendRun a bytes).trace =
      s.trace ++ (frameEvents [buildDataCommand .autoIncrement] ++ frameEvents (buildAddress a :: bytes)) := by
  rw [State.sendRun_eq, State.emits_trace]

/-- Settles O18: the longest operation is `init()`, three frames of 19 bytes in all. -/
theorem operationsAppendAtMost954Events : Obligations.OperationsAppendAtMost954Events := by
  unfold Obligations.OperationsAppendAtMost954Events
  intro i s t h
  cases i with
  | dataAuto | dataFixed | dispOff | dispOn | addr | delay | driveClock | driveData | start | stop | writeByte
  | sendCommand | writeAddress | writeBlock | releaseLines =>
    obtain ⟨es, rfl, hlen⟩ := exec_next_of_drivesLinesOnly rfl h
    exact ⟨es, s.emits_trace es, by omega⟩
  | init =>
    obtain rfl := Host.Outcome.next.inj h
    simp [State.sendRun_eq, State.sendDisplayControl_eq, frameEvents_length]
  | deinit | setbrt | seton =>
    obtain rfl := State.eq_of_whenActive_next h
    simp [State.sendDisplayControl_eq, State.releaseLines, frameEvents_length]
  | clear | test | flush =>
    obtain rfl := State.eq_of_whenActive_next h
    simp [State.sendRun_eq, frameEvents_length, Memory.bytes_length]
  | wrgrid =>
    obtain ⟨-, rfl⟩ | ⟨a, -, rfl⟩ := execWrgrid_next h <;>
      simp [State.sendCommand_eq, State.writeBlock_eq, frameEvents_length]
  | wrarr start length data =>
    obtain ⟨-, rfl⟩ | ⟨a, -, -, rfl⟩ := execWrarr_next h
    · simp
    · have hcount : runCount a length ≤ 16 := by
        rw [runCount]
        omega
      refine ⟨_, by rw [State.returnNothing_trace, State.sendRun_trace, State.setBuf_trace], ?_⟩
      simp only [List.length_append, frameEvents_length, List.length_cons, List.length_nil, List.length_take]
      omega
  | setbuf =>
    obtain ⟨-, rfl⟩ | ⟨a, -, rfl⟩ := execSetbuf_next h <;> simp
  | setbit =>
    obtain ⟨-, rfl⟩ | ⟨a, -, rfl⟩ := execSetbit_next h <;> simp
  | getbuf =>
    obtain ⟨-, rfl⟩ | ⟨a, -, rfl⟩ := execGetbuf_next h <;> simp
  | digit | hex | char | buildDataCommand | buildDisplayControl | buildAddress =>
    obtain rfl := Host.Outcome.next.inj h
    simp
  | reserved15 => cases h

/-! ### The reset -/

/-- A state is its ten fields. -/
theorem State.eq_of_fields (hbuf : s.buf = t.buf) (hen : s.en = t.en) (hbrt : s.brt = t.brt) (hlife : s.life = t.life)
    (hwire : s.wire = t.wire) (htrace : s.trace = t.trace) (hresult : s.result = t.result) (hdraws : s.draws = t.draws)
    (hencRet : s.encRet = t.encRet) (hport : s.port = t.port) : s = t := by
  cases s
  cases t
  simp_all

/-- Canonical memories are the same data once filled with one value. -/
theorem Memory.fill_eq_fill {m n : Memory} (hm : m.wf = true) (hn : n.wf = true) (v : Byte) : m.fill v = n.fill v :=
  Memory.ext_of_read (Memory.wf_fill hm v) (Memory.wf_fill hn v) fun a => by
    rw [Memory.read_fill hm, Memory.read_fill hn]

/-- Settles O57: `init()` overwrites the four fields before anything reads them. -/
theorem initHidesTheResetValues : Obligations.InitHidesTheResetValues := by
  unfold Obligations.InitHidesTheResetValues
  intro s m en brt life hs hm
  refine congrArg Host.Outcome.next (State.eq_of_fields ?_ ?_ ?_ ?_ ?_ ?_ ?_ ?_ ?_ ?_)
  · simpa [State.sendRun_eq, State.sendDisplayControl_eq] using Memory.fill_eq_fill hm hs 0x00#8
  all_goals simp [State.sendRun_eq, State.sendDisplayControl_eq]

/-! ### The step and the reset state -/

/-- Settles O4. -/
theorem stepPerformsTheDecodedRequest : Obligations.StepPerformsTheDecodedRequest := by
  unfold Obligations.StepPerformsTheDecodedRequest
  intro s i
  exact ⟨fun _ _ hport hdecode => step_of_decode (State.takeWord_host hport) hdecode,
    fun _ hbench hdecode => step_of_decode (State.takeWord_bench hbench) hdecode⟩

/-- Settles O6. -/
theorem stepWithoutAnOperation : Obligations.StepWithoutAnOperation := by
  unfold Obligations.StepWithoutAnOperation
  intro s
  refine ⟨fun hport => step_of_takeWord_none (State.takeWord_none.mpr hport), fun b hbench hcommand => ?_⟩
  have hdecode : decode (.wire b) = none := by simpa [isCommandByte, decode] using hcommand
  rw [step_of_decode_none (State.takeWord_bench hbench) hdecode, refuseWord]

/-- Settles O7: the empty memory reads `0x00` everywhere. -/
theorem resetIsTheCreatedBlock : Obligations.ResetIsTheCreatedBlock := by
  unfold Obligations.ResetIsTheCreatedBlock
  exact ⟨Memory.read_nil, rfl, rfl, rfl, rfl⟩

end Sys2Proof.Machine
end

section
/-! SUPPORT. The reference observer of the device (20_memory.md R43 to R47): it takes the frames that the waveform
closes, and after each bus sequence of the engine it is the observer before, given the frames of that sequence. -/

namespace Sys2Proof.Machine

variable {s t : State}

/-! ### The observer and the waveform -/

/-- One event gives the observer the frame that it closes, if it closes one. -/
theorem Wire.step_dev (w : Wire) (e : Event) : (w.step e).dev = (closedBy w e).foldl Device.receive w.dev := by
  simp only [Wire.step, closedBy]
  by_cases hstart : isStart (w.clk, w.dat) (linesAfter e (w.clk, w.dat)) = true
  · simp [hstart, isStart_not_isStop _ _ hstart]
  · by_cases hstop : isStop (w.clk, w.dat) (linesAfter e (w.clk, w.dat)) = true
    · cases w.rx <;> simp [hstart, hstop]
    · by_cases hrise : isRise (w.clk, w.dat) (linesAfter e (w.clk, w.dat)) = true
      · simp [hstart, hstop, hrise]
      · simp [hstart, hstop, hrise]

/-- Settles O10, by induction on the events. -/
theorem observerReceivesTheFramesOfTheWaveform : Obligations.ObserverReceivesTheFramesOfTheWaveform := by
  unfold Obligations.ObserverReceivesTheFramesOfTheWaveform
  intro es
  induction es with
  | nil => exact fun _ => rfl
  | cons e es ih =>
    intro w
    rw [segments_cons, List.foldl_append, ← Wire.step_dev]
    exact ih (w.step e)

/-! ### What the invariant and the updates of the state say of the observer -/

/-- Between steps no frame is open. -/
theorem MachineInvariant.rx (h : MachineInvariant s) : s.wire.rx = none := by
  obtain ⟨-, -, hrx, -⟩ := h
  exact hrx

/-- `DEV_MEM` has the canonical form. -/
theorem MachineInvariant.wf_dev (h : MachineInvariant s) : s.dev.mem.wf = true := by
  obtain ⟨-, hmem, -⟩ := h
  exact hmem

section
variable (s : State)

@[simp] theorem State.setBuf_dev (m : Memory) : (s.setBuf m).dev = s.dev := congrArg Wire.dev (s.setBuf_wire m)
@[simp] theorem State.setEn_dev (v : Bool) : (s.setEn v).dev = s.dev := congrArg Wire.dev (s.setEn_wire v)
@[simp] theorem State.setBrt_dev (v : Brightness) : (s.setBrt v).dev = s.dev := congrArg Wire.dev (s.setBrt_wire v)
@[simp] theorem State.setLife_dev (v : Life) : (s.setLife v).dev = s.dev := congrArg Wire.dev (s.setLife_wire v)
@[simp] theorem State.returnNothing_dev : s.returnNothing.dev = s.dev := congrArg Wire.dev s.returnNothing_wire

/-- Releasing the lines sends no frame (R79). -/
@[simp] theorem State.releaseLines_dev : s.releaseLines.dev = s.dev := by
  rw [State.dev, State.releaseLines, State.emits_wire, List.foldl_cons, List.foldl_nil, step_rel]

@[simp] theorem State.releaseLines_en : s.releaseLines.en = s.en := s.emits_en _
@[simp] theorem State.releaseLines_brt : s.releaseLines.brt = s.brt := s.emits_brt _

end

/-! ### One frame -/

/-- A frame sent with none open reaches the observer whole, and changes the lines, the trace and the observer alone. -/
theorem State.frame_spec {bytes : List Byte} (hrx : s.wire.rx = none) (ht : t = s.emits (frameEvents bytes)) :
    s.Emits t (frameEvents bytes) ∧ t.dev = s.dev.frame bytes ∧ t.BusIdle ∧
    s.KeepsBuffer t ∧ s.KeepsControl t ∧ s.KeepsHostSide t := by
  subst ht
  obtain ⟨hemits, hbuffer, hcontrol, hhost⟩ := s.emits_spec (frameEvents bytes)
  refine ⟨hemits, ?_, s.busIdle_emits_frame bytes, hbuffer, hcontrol, hhost⟩
  rw [State.dev, State.emits_wire, foldl_step_frame s.wire hrx bytes]

/-- `sendCommand(b)` gives the observer the frame of the one byte. -/
theorem State.sendCommand_dev (hrx : s.wire.rx = none) (b : Byte) : (s.sendCommand b).dev = s.dev.frame [b] := by
  obtain ⟨-, hdev, -⟩ := State.frame_spec hrx (s.sendCommand_eq b)
  exact hdev

/-- `writeBlock(a, bytes)` gives the observer the frame of the address command and the bytes. -/
theorem State.writeBlock_dev (hrx : s.wire.rx = none) (a : GridAddr) (bytes : List Byte) :
    (s.writeBlock a bytes).dev = s.dev.frame (buildAddress a :: bytes) := by
  obtain ⟨-, hdev, -⟩ := State.frame_spec hrx (s.writeBlock_eq a bytes)
  exact hdev

/-- `sendCommand(b)` leaves no frame open. -/
theorem State.sendCommand_rx (hrx : s.wire.rx = none) (b : Byte) : (s.sendCommand b).wire.rx = none := by
  rw [State.sendCommand_eq, State.emits_wire, foldl_step_frame s.wire hrx]

/-! ### The wire command bytes on their own -/

/-- The display control byte for display on, as a number. -/
theorem buildDisplayControl_on (l : Brightness) :
    buildDisplayControl true (l.setWidth 8) = 0x88#8 ||| l.setWidth 8 := by
  revert l
  decide

/-- Settles O32: each byte is what its encoder function builds, and its frame does to the observer what R46 says. -/
theorem wireCommandBytesReachTheDevice : Obligations.WireCommandBytesReachTheDevice := by
  unfold Obligations.WireCommandBytesReachTheDevice
  intro s hrx
  refine ⟨⟨_, rfl, ?dataAuto⟩, ⟨_, rfl, ?dataFixed⟩, ⟨_, rfl, ?dispOff⟩, fun l => ⟨_, rfl, ?dispOn⟩,
    fun a => ⟨_, rfl, ?addr⟩⟩
  case dataAuto =>
    rw [← Device.frame_dataCommand]
    exact State.frame_spec hrx (s.sendCommand_eq _)
  case dataFixed =>
    rw [← Device.frame_dataCommand]
    exact State.frame_spec hrx (s.sendCommand_eq _)
  case dispOff =>
    rw [← s.dev.frame_displayOff 0x00#8]
    exact State.frame_spec hrx (s.sendCommand_eq _)
  case dispOn =>
    rw [← Device.frame_displayOn, ← buildDisplayControl_on]
    exact State.frame_spec hrx (s.sendCommand_eq _)
  case addr =>
    have hptr : s.dev.frame [buildAddress a] = { s.dev with ptr := a } := s.dev.frame_address a []
    rw [← hptr]
    exact State.frame_spec hrx (s.writeBlock_eq a [])

/-! ### Display control -/

/-- The device is on exactly when `EN` is true, with level `BRT` when on and level 0 when off (R47 d). -/
def State.DeviceFollowsControl (s : State) : Prop :=
  s.dev.on = s.en ∧ (s.en = true → s.dev.level = s.brt) ∧ (s.en = false → s.dev.level = 0#3)

/-- It depends on the observer, `EN` and `BRT` alone. -/
theorem State.DeviceFollowsControl.of_eq (h : s.DeviceFollowsControl) (hdev : t.dev = s.dev) (hen : t.en = s.en)
    (hbrt : t.brt = s.brt) : t.DeviceFollowsControl := by
  rw [State.DeviceFollowsControl, hdev, hen, hbrt]
  exact h

/-- A display control frame sets on and level from its two fields and keeps the rest of the observer. -/
theorem Device.frame_displayControl (d : Device) (en : Bool) (brt : Brightness) :
    d.frame [buildDisplayControl en (brt.setWidth 8)] = { d with on := en, level := if en then brt else 0#3 } := by
  cases en with
  | false => exact d.frame_displayOff _
  | true => exact d.frame_displayOn brt

/-- `sendDisplayControl` brings `EN` and `BRT` to the observer and keeps the rest of it. -/
theorem State.sendDisplayControl_dev (hrx : s.wire.rx = none) :
    s.sendDisplayControl.dev = { s.dev with on := s.en, level := if s.en then s.brt else 0#3 } := by
  rw [State.sendDisplayControl, State.sendCommand_dev hrx, Device.frame_displayControl]

@[simp] theorem State.sendDisplayControl_en (s : State) : s.sendDisplayControl.en = s.en := by
  rw [State.sendDisplayControl_eq, State.emits_en]

@[simp] theorem State.sendDisplayControl_brt (s : State) : s.sendDisplayControl.brt = s.brt := by
  rw [State.sendDisplayControl_eq, State.emits_brt]

@[simp] theorem State.sendDisplayControl_buf (s : State) : s.sendDisplayControl.buf = s.buf := by
  rw [State.sendDisplayControl_eq, State.emits_buf]

/-- After a display control frame the device follows `EN` and `BRT`. -/
theorem State.sendDisplayControl_follows (hrx : s.wire.rx = none) : s.sendDisplayControl.DeviceFollowsControl := by
  rw [State.DeviceFollowsControl, State.sendDisplayControl_dev hrx, State.sendDisplayControl_en,
    State.sendDisplayControl_brt]
  refine ⟨rfl, fun hen => ?_, fun hen => ?_⟩ <;> simp [hen]

/-- Settles O53: nothing that an operation does after its display control frame touches the observer, `EN` or `BRT`. -/
theorem displayControlFollowsEnableAndBrightness : Obligations.DisplayControlFollowsEnableAndBrightness := by
  unfold Obligations.DisplayControlFollowsEnableAndBrightness
  intro i s t hinv hi h
  change t.DeviceFollowsControl
  obtain rfl | rfl | ⟨level, rfl⟩ | ⟨on, rfl⟩ := hi
  · obtain rfl := Host.Outcome.next.inj h
    have hsent := (((hinv.fillBuffer 0x00#8).sendRun 0 (List.replicate 16 0x00#8)).setEn true).setBrt
      Config.initBrightness
    exact (State.sendDisplayControl_follows hsent.rx).of_eq (by simp) (by simp) (by simp)
  · obtain rfl := State.eq_of_whenActive_next h
    exact (State.sendDisplayControl_follows (hinv.setEn false).rx).of_eq (by simp)
      (by simp) (by simp)
  · obtain rfl := State.eq_of_whenActive_next h
    exact (State.sendDisplayControl_follows (hinv.setBrt (lowThree level)).rx).of_eq (by simp) (by simp)
      (by simp)
  · obtain rfl := State.eq_of_whenActive_next h
    exact (State.sendDisplayControl_follows (hinv.setEn on).rx).of_eq (by simp) (by simp) (by simp)

/-! ### Runs of cells -/

/-- Inside a run of writes what a cell held before does not matter. -/
theorem Memory.read_writeRun_inside {m n : Memory} (hm : m.wf = true) (hn : n.wf = true) {bytes : List Byte} {p : Nat}
    (hfit : p + bytes.length ≤ 16) {a : GridAddr} (hle : p ≤ a.val) (hlt : a.val < p + bytes.length) :
    (m.writeRun p bytes).read a = (n.writeRun p bytes).read a := by
  have hin : p ≤ a.val ∧ a.val - p < bytes.length := ⟨hle, by omega⟩
  rw [Memory.read_writeRun bytes p hm hfit, Memory.read_writeRun bytes p hn hfit, dif_pos hin, dif_pos hin]

/-- Outside a run of writes every cell reads as before. -/
theorem Memory.read_writeRun_outside {m : Memory} (hm : m.wf = true) {bytes : List Byte} {p : Nat}
    (hfit : p + bytes.length ≤ 16) {a : GridAddr} (hout : a.val < p ∨ p + bytes.length ≤ a.val) :
    (m.writeRun p bytes).read a = m.read a := by
  rw [Memory.read_writeRun bytes p hm hfit, dif_neg (by omega)]

/-- All 16 bytes of one memory written over another: every cell reads as in the first. -/
theorem Memory.read_writeRun_bytes {m : Memory} (hm : m.wf = true) (n : Memory) (a : GridAddr) :
    (m.writeRun 0 n.bytes).read a = n.read a := by
  have hlen := n.bytes_length
  have hin : 0 ≤ a.val ∧ a.val - 0 < n.bytes.length := by omega
  rw [Memory.read_writeRun n.bytes 0 hm (by omega), dif_pos hin]
  exact n.bytes_getElem a

/-- The bytes of a filled memory. -/
theorem Memory.bytes_fill {m : Memory} (hm : m.wf = true) (v : Byte) : (m.fill v).bytes = List.replicate 16 v := by
  refine List.eq_replicate_iff.mpr ⟨Memory.bytes_length _, fun b hb => ?_⟩
  obtain ⟨a, -, rfl⟩ := List.mem_map.mp hb
  exact Memory.read_fill hm v a

@[simp] theorem State.sendRun_buf (s : State) (a : GridAddr) (bytes : List Byte) : (s.sendRun a bytes).buf = s.buf := by
  rw [State.sendRun_eq, State.emits_buf]

/-- A run that ends at address 15 at the latest writes exactly its cells of `DEV_MEM`, in auto-increment mode. -/
theorem State.sendRun_dev (hrx : s.wire.rx = none) {a : GridAddr} {bytes : List Byte}
    (hfit : a.val + bytes.length ≤ 16) :
    (s.sendRun a bytes).dev.mem = s.dev.mem.writeRun a.val bytes ∧ (s.sendRun a bytes).dev.mode = .autoIncrement := by
  rw [State.sendRun, State.writeBlock_dev (State.sendCommand_rx hrx _), State.sendCommand_dev hrx,
    Device.frame_dataCommand, Device.frame_address]
  obtain ⟨hmem, hmode, -⟩ := Device.foldl_store_auto bytes { s.dev with mode := .autoIncrement, ptr := a } rfl hfit
  exact ⟨hmem, hmode⟩

/-! ### The whole buffer -/

/-- Every device cell equals its buffer cell and the device is in auto-increment mode (R47 b). -/
def State.DeviceShowsBuffer (s : State) : Prop :=
  (∀ a : GridAddr, s.dev.mem.read a = s.buf.read a) ∧ s.dev.mode = .autoIncrement

/-- It depends on the buffer and the observer alone. -/
theorem State.DeviceShowsBuffer.of_eq (h : s.DeviceShowsBuffer) (hbuf : t.buf = s.buf) (hdev : t.dev = s.dev) :
    t.DeviceShowsBuffer := by
  rw [State.DeviceShowsBuffer, hbuf, hdev]
  exact h

/-- A display control frame changes neither `DEV_MEM` nor `DEV_MODE`. -/
theorem State.DeviceShowsBuffer.sendDisplayControl (h : s.DeviceShowsBuffer) (hrx : s.wire.rx = none) :
    s.sendDisplayControl.DeviceShowsBuffer := by
  rw [State.DeviceShowsBuffer, State.sendDisplayControl_dev hrx, State.sendDisplayControl_buf]
  exact h

/-- Sending all bytes of the buffer makes the device show it. -/
theorem MachineInvariant.sendRun_bytes_shows (h : MachineInvariant s) :
    (s.sendRun 0 s.buf.bytes).DeviceShowsBuffer := by
  have hfit : (0 : GridAddr).val + s.buf.bytes.length ≤ 16 := by simp [Memory.bytes_length]
  obtain ⟨hmem, hmode⟩ := State.sendRun_dev h.rx hfit
  refine ⟨fun a => ?_, hmode⟩
  rw [hmem, State.sendRun_buf]
  exact Memory.read_writeRun_bytes h.wf_dev s.buf a

/-- Filling the buffer with one byte and sending 16 of that byte makes the device show it. -/
theorem MachineInvariant.fillBuffer_sendRun_shows (h : MachineInvariant s) (v : Byte) :
    ((s.fillBuffer v).sendRun 0 (List.replicate 16 v)).DeviceShowsBuffer := by
  rw [← Memory.bytes_fill h.wf_buf v, ← State.fillBuffer_buf]
  exact (h.fillBuffer v).sendRun_bytes_shows

/-- `flush()` keeps the buffer and makes the device show it (R109). -/
theorem MachineInvariant.execFlush_shows (hinv : MachineInvariant s) (h : execFlush s = .next t) :
    t.DeviceShowsBuffer ∧ t.buf = s.buf := by
  obtain rfl := State.eq_of_whenActive_next h
  exact ⟨hinv.sendRun_bytes_shows.of_eq (by simp) (by simp), by simp⟩

/-- Settles O51: each operation sends the whole buffer as it has left it, and `init()` then changes only the display
control of the device. -/
theorem wholeBufferOperationsMakeDeviceEqualBuffer : Obligations.WholeBufferOperationsMakeDeviceEqualBuffer := by
  unfold Obligations.WholeBufferOperationsMakeDeviceEqualBuffer
  intro i s t hinv hi h
  change t.DeviceShowsBuffer
  obtain rfl | rfl | rfl | rfl := hi
  · obtain rfl := Host.Outcome.next.inj h
    have hsent := (((hinv.fillBuffer 0x00#8).sendRun 0 (List.replicate 16 0x00#8)).setEn true).setBrt
      Config.initBrightness
    have hshows := (hinv.fillBuffer_sendRun_shows 0x00#8).of_eq
      (t := (((s.fillBuffer 0x00#8).sendRun 0 (List.replicate 16 0x00#8)).setEn true).setBrt Config.initBrightness)
      (by simp) (by simp)
    exact (hshows.sendDisplayControl hsent.rx).of_eq (by simp) (by simp)
  · obtain rfl := State.eq_of_whenActive_next h
    exact (hinv.fillBuffer_sendRun_shows 0x00#8).of_eq (by simp) (by simp)
  · exact (hinv.execFlush_shows h).left
  · obtain rfl := State.eq_of_whenActive_next h
    exact (hinv.fillBuffer_sendRun_shows Config.allOn).of_eq (by simp) (by simp)

/-! ### Single cells and runs -/

/-- The fixed-address data command and one data byte write one cell of `DEV_MEM`. -/
theorem State.sendCell_dev_mem (hrx : s.wire.rx = none) (a : GridAddr) (data : Byte) :
    ((s.sendCommand (buildDataCommand .fixed)).writeBlock a [data]).dev.mem = s.dev.mem.write a data := by
  rw [State.writeBlock_dev (State.sendCommand_rx hrx _), State.sendCommand_dev hrx, Device.frame_dataCommand,
    Device.frame_address, List.foldl_cons, List.foldl_nil, Device.store_fixed _ rfl]

/-- `writeGrid` below grid 16 writes the same cell of the buffer and of `DEV_MEM` (R104). -/
theorem execWrgrid_memories {address data : Byte} {a : GridAddr} (hrx : s.wire.rx = none)
    (ha : a.val = address.toNat) (h : execWrgrid address data s = .next t) :
    t.buf = s.buf.write a data ∧ t.dev.mem = s.dev.mem.write a data := by
  obtain ⟨hge, -⟩ | ⟨a', ha', rfl⟩ := execWrgrid_next h
  · omega
  · obtain rfl : a' = a := Fin.ext (ha'.trans ha.symm)
    constructor
    · simp [State.sendCommand_eq, State.writeBlock_eq]
    · have hcell := State.sendCell_dev_mem (s := s.setBuf (s.buf.write a' data)) (by simpa using hrx) a' data
      simpa using hcell

/-- `writeGridArray` below grid 16 writes one run of the clamped length, in the buffer and in `DEV_MEM` (R105). -/
theorem execWrarr_memories {start length : Byte} {data : List Byte} (hrx : s.wire.rx = none)
    (hstart : start.toNat < 16) (h : execWrarr start length data s = .next t) :
    ∃ bytes : List Byte, bytes.length = min length.toNat (16 - start.toNat) ∧
      t.buf = s.buf.writeRun start.toNat bytes ∧ t.dev.mem = s.dev.mem.writeRun start.toNat bytes := by
  obtain ⟨hge, -⟩ | ⟨a, ha, hpay, rfl⟩ := execWrarr_next h
  · omega
  · have hlen : (data.take (runCount a length)).length = min length.toNat (16 - start.toNat) := by
      rw [List.length_take_of_le hpay, runCount, ha]
    refine ⟨data.take (runCount a length), hlen, by simp [ha], ?_⟩
    obtain ⟨hmem, -⟩ := State.sendRun_dev (s := s.setBuf (s.buf.writeRun a.val (data.take (runCount a length))))
      (a := a) (bytes := data.take (runCount a length)) (by simpa using hrx) (by omega)
    simpa [ha] using hmem

/-- Settles O52: the same write, of a cell or of a run, is made in the buffer and in the device memory. -/
theorem gridWritesSendOnlyTheirCells : Obligations.GridWritesSendOnlyTheirCells := by
  unfold Obligations.GridWritesSendOnlyTheirCells
  refine ⟨fun address data s t a hinv ha h => ?_, fun start length data s t b hinv hstart h => ?_⟩
  · obtain ⟨hbuf, hmem⟩ := execWrgrid_memories hinv.rx ha h
    rw [hbuf, hmem]
    refine ⟨by simp [Memory.read_write hinv.wf_dev], by simp [Memory.read_write hinv.wf_buf], fun b hb => ?_⟩
    rw [Memory.read_write hinv.wf_dev, if_neg (Ne.symm hb)]
  · obtain ⟨bytes, hlen, hbuf, hmem⟩ := execWrarr_memories hinv.rx hstart h
    have hfit : start.toNat + bytes.length ≤ 16 := by omega
    rw [hbuf, hmem, ← hlen]
    exact ⟨Memory.read_writeRun_inside hinv.wf_dev hinv.wf_buf hfit, Memory.read_writeRun_outside hinv.wf_dev hfit⟩

/-! ### Staging -/

/-- Staging sends nothing and keeps the invariant (R41). -/
theorem MachineInvariant.staged {i : Instr} (hinv : MachineInvariant s)
    (hi : (∃ address data, i = .setbuf address data) ∨ ∃ address mask set, i = .setbit address mask set)
    (h : exec i s = .next t) : MachineInvariant t ∧ t.wire = s.wire := by
  obtain ⟨address, data, rfl⟩ | ⟨address, mask, set, rfl⟩ := hi
  · refine ⟨exec_keeps_machineInvariant _ rfl hinv h, ?_⟩
    obtain ⟨-, rfl⟩ | ⟨a, -, rfl⟩ := execSetbuf_next h <;> simp
  · refine ⟨exec_keeps_machineInvariant _ rfl hinv h, ?_⟩
    obtain ⟨-, rfl⟩ | ⟨a, -, rfl⟩ := execSetbit_next h <;> simp

/-- Settles O54: the flush sends the buffer as it was staged. -/
theorem stagedCellsReachTheDeviceAtFlush : Obligations.StagedCellsReachTheDeviceAtFlush := by
  unfold Obligations.StagedCellsReachTheDeviceAtFlush
  intro i s t u hinv hi hstage hflush
  obtain ⟨hinvt, hwire⟩ := hinv.staged hi hstage
  obtain ⟨⟨hshows, -⟩, hbuf⟩ := hinvt.execFlush_shows hflush
  exact ⟨congrArg Wire.dev hwire, fun a => ⟨by rw [hshows a, hbuf], by rw [hbuf]⟩⟩

end Sys2Proof.Machine
end

section
/-! SUPPORT. The encodings (30_encoding.md): the decoder and the encoder are inverse to each other, the wire command
bytes are those of the encoder functions, and a step performs what the word presented to it decodes to. -/

namespace Sys2Proof.Machine

variable {s t : State}

/-! ### The decoder after the encoder -/

/-- The level field of a display control byte comes back. -/
theorem decodeWire_dispOn : ∀ l : Brightness, decodeWire (0x88#8 ||| BitVec.ofNat 8 l.toNat) = some (.dispOn l) := by
  decide

/-- The address field of an address command byte comes back. -/
theorem decodeWire_addr : ∀ a : GridAddr, decodeWire (0xC0#8 ||| BitVec.ofNat 8 a.val) = some (.addr a) := by
  decide

/-- The word of an instruction decodes to it: a wire command byte by its mask and match, a host request by its operation
select code and then field by field. -/
theorem decode_of_encode {i : Instr} {w : TableWord} (h : encode i = some w) : decode w = some i := by
  cases i with
  | dataAuto | dataFixed | dispOff =>
    obtain rfl := Option.some.inj h
    rfl
  | dispOn l =>
    obtain rfl := Option.some.inj h
    exact decodeWire_dispOn l
  | addr a =>
    obtain rfl := Option.some.inj h
    exact decodeWire_addr a
  | init | deinit | setbrt | seton | clear | wrgrid | wrarr | getbuf | setbuf | setbit | flush | digit | hex | char | test
  | reserved15 =>
    obtain rfl := Option.some.inj h
    simp [decode, decodeHost]
  | delay | driveClock | driveData | start | stop | writeByte | sendCommand | writeAddress | writeBlock | releaseLines
  | buildDataCommand | buildDisplayControl | buildAddress => cases h

/-- Settles O1. -/
theorem decodeOfEncodeIsTheInstruction : Obligations.DecodeOfEncodeIsTheInstruction := by
  unfold Obligations.DecodeOfEncodeIsTheInstruction
  exact fun _ _ => decode_of_encode

/-- Settles O2: each word is the one that the encoder writes for its instruction. -/
theorem wordsDecodeAsTheTablesSay : Obligations.WordsDecodeAsTheTablesSay := by
  unfold Obligations.WordsDecodeAsTheTablesSay
  exact ⟨decode_of_encode rfl, decode_of_encode rfl, decode_of_encode rfl, decode_of_encode rfl, decode_of_encode rfl,
    decode_of_encode rfl, decode_of_encode rfl, decode_of_encode rfl, decode_of_encode rfl⟩

/-! ### The wire command bytes -/

/-- The fixed bits of DISP_ON and the level field make up the byte (30_encoding.md R53). -/
theorem dispOn_byte_eq : ∀ b : Byte, b &&& 0xF8#8 = 0x88#8 → 0x88#8 ||| BitVec.ofNat 8 (wireLevel b).toNat = b := by
  decide

/-- The fixed bits of ADDR and the address field make up the byte (R53). -/
theorem addr_byte_eq : ∀ b : Byte, b &&& 0xF0#8 = 0xC0#8 → 0xC0#8 ||| BitVec.ofNat 8 (wireAddr b).val = b := by
  decide

/-- A wire command byte has no ignored bit: it is the byte of the instruction it decodes to. -/
theorem encode_of_decodeWire {b : Byte} {i : Instr} (h : decodeWire b = some i) : encode i = some (.wire b) := by
  have hmask : b &&& 0xFF#8 = b := BitVec.and_allOnes
  simp only [decodeWire, hmask] at h
  split_ifs at h with hauto hfixed hoff hon haddr <;> obtain rfl := Option.some.inj h
  · rw [hauto, encode]
  · rw [hfixed, encode]
  · rw [hoff, encode]
  · rw [encode, dispOn_byte_eq b hon]
  · rw [encode, addr_byte_eq b haddr]

/-- The command bytes are the words of the wire instructions. -/
theorem isCommandByte_iff_encode {b : Byte} : isCommandByte b = true ↔ ∃ i, encode i = some (.wire b) := by
  rw [isCommandByte, Option.isSome_iff_exists]
  exact ⟨fun ⟨i, hi⟩ => ⟨i, encode_of_decodeWire hi⟩, fun ⟨i, hi⟩ => ⟨i, decode_of_encode hi⟩⟩

/-- The word of DISP_ON is the display control byte of its level. -/
theorem encode_dispOn (l : Brightness) :
    encode (.dispOn l) = some (.wire (buildDisplayControl true (l.setWidth 8))) := by
  rw [encode, BitVec.ofNat_toNat, buildDisplayControl_on]

/-- The words of the wire instructions are the bytes that the encoder functions build, with the default parameters. -/
theorem encode_wire_iff_command {b : Byte} : (∃ i, encode i = some (.wire b)) ↔ ∃ c : Command, Command.byte c = b := by
  constructor
  · rintro ⟨i, h⟩
    cases i with
    | dataAuto => cases h; exact ⟨.dataCommand .autoIncrement, rfl⟩
    | dataFixed => cases h; exact ⟨.dataCommand .fixed, rfl⟩
    | dispOff => cases h; exact ⟨.displayControl false 0x00#8, rfl⟩
    | dispOn l =>
      rw [encode_dispOn] at h
      cases h
      exact ⟨.displayControl true (l.setWidth 8), rfl⟩
    | addr a => cases h; exact ⟨.address a, rfl⟩
    | _ => cases h
  · rintro ⟨c, rfl⟩
    cases c with
    | dataCommand addressing =>
      cases addressing with
      | autoIncrement => exact ⟨.dataAuto, rfl⟩
      | fixed => exact ⟨.dataFixed, rfl⟩
    | displayControl enabled brightness =>
      cases enabled with
      | false => exact ⟨.dispOff, rfl⟩
      | true =>
        obtain ⟨-, hlow⟩ := lowThree_spec brightness
        exact ⟨.dispOn (lowThree brightness), by rw [encode_dispOn, hlow, Command.byte]⟩
    | address a => exact ⟨.addr a, rfl⟩

/-- Settles O3: both are the words of the wire instructions. -/
theorem commandBytesAreWhatTheEncoderBuilds : Obligations.CommandBytesAreWhatTheEncoderBuilds := by
  unfold Obligations.CommandBytesAreWhatTheEncoderBuilds
  exact fun _ => isCommandByte_iff_encode.trans encode_wire_iff_command

/-! ### The counts of a frame -/

/-- The delays of a frame's bytes. -/
theorem dlyCount_flatMap_byteEvents (bytes : List Byte) : dlyCount (bytes.flatMap byteEvents) = 24 * bytes.length := by
  induction bytes with
  | nil => rfl
  | cons b bytes ih =>
    rw [List.flatMap_cons, dlyCount_append, dlyCount_byteEvents, ih, List.length_cons]
    omega

/-- Three delays in START, 24 in each byte, three in STOP (30_encoding.md R52). -/
theorem dlyCount_frameEvents (bytes : List Byte) : dlyCount (frameEvents bytes) = 6 + 24 * bytes.length := by
  have hstart : dlyCount startEvents = 3 := rfl
  have hstop : dlyCount stopEvents = 3 := rfl
  rw [frameEvents, dlyCount_append, dlyCount_append, dlyCount_flatMap_byteEvents, hstart, hstop]
  omega

/-- Settles O12. -/
theorem frameEventCounts : Obligations.FrameEventCounts := by
  unfold Obligations.FrameEventCounts
  exact fun bytes => ⟨frameEvents_length bytes, dlyCount_frameEvents bytes⟩

/-! ### The word of a step -/

/-- An operation that goes on leaves what is presented as it was. -/
theorem exec_next_port {i : Instr} (h : exec i s = .next t) : t.port = s.port := by
  obtain ⟨-, -, -, hport⟩ := stateIsWrittenOnlyByItsOperations i s t h
  exact hport

/-- A request whose operation goes on is one of the fifteen: the reserved code is refused (30_encoding.md R62, R63). -/
theorem isHostOperation_of_exec_next {r : Request} (h : exec (decodeHost r.req r.pay) s = .next t) :
    isHostOperation (decodeHost r.req r.pay) = true := by
  obtain hop | hres := decodeHost_spec r.req r.pay
  · exact hop
  · rw [hres] at h
    cases h

/-- With nothing on the test bench a step takes nothing, as the host presents nothing, or the host's oldest request. -/
theorem State.takeWord_of_bench_none (hbench : s.port.bench = none) :
    (s.port.host = [] ∧ s.takeWord = none) ∨
    ∃ (r : Request) (rest : List Request), s.port.host = r :: rest ∧
      s.takeWord = some (.host r, s.setPort { host := rest, bench := none }) := by
  cases htake : s.takeWord with
  | none => exact .inl ⟨congrArg Port.host (State.takeWord_none.mp htake), rfl⟩
  | some taken =>
    obtain ⟨b, hb, -⟩ | ⟨r, rest, hport, hword, hrest⟩ := State.takeWord_some htake
    · cases hbench.symm.trans hb
    · exact .inr ⟨r, rest, congrArg Port.host hport, congrArg some (Prod.ext hword hrest)⟩

/-- Settles O58, by the two things that a step can take. -/
theorem hostRequestsPerformOnlyHostOperations : Obligations.HostRequestsPerformOnlyHostOperations := by
  unfold Obligations.HostRequestsPerformOnlyHostOperations
  refine ⟨rfl, fun s t hbench h => ?_⟩
  obtain ⟨hhost, htake⟩ | ⟨r, rest, hhost, htake⟩ := State.takeWord_of_bench_none hbench
  · rw [step_of_takeWord_none htake] at h
    obtain rfl := Host.Outcome.next.inj h
    exact ⟨hbench, .inl ⟨hhost, rfl⟩⟩
  · have hdecode : decode (.host r) = some (decodeHost r.req r.pay) := rfl
    rw [step_of_decode htake hdecode] at h
    have hport : t.port = { host := rest, bench := none } := exec_next_port h
    exact ⟨congrArg Port.bench hport,
      .inr ⟨r, rest, _, hhost, hdecode, isHostOperation_of_exec_next h, h⟩⟩

/-- Bits of the opcode table that decode are a word that is placed and decodes. -/
theorem withFetchWord_of_decodeTableWord {nbits w : Nat} {i : Instr} (s : State) (h : decodeTableWord nbits w = some i) :
    ∃ word : TableWord, decode word = some i ∧ s.withFetchWord nbits w = s.place word := by
  obtain ⟨word, hword, hdecode⟩ := Option.bind_eq_some_iff.mp h
  exact ⟨word, hdecode, by rw [State.withFetchWord, hword]⟩

/-- Settles O5: the word placed is the one that the step takes. -/
theorem tableWordRunsAtTheNextStep : Obligations.TableWordRunsAtTheNextStep := by
  unfold Obligations.TableWordRunsAtTheNextStep
  intro nbits w i s h
  obtain ⟨word, hdecode, hplace⟩ := withFetchWord_of_decodeTableWord s h
  rw [hplace]
  exact ⟨step_of_decode (s.takeWord_place word) hdecode, State.clearBench_eq⟩

/-! ### The cases without a meaning -/

/-- `writeGridArray` in ACTIVE refuses a payload shorter than the clamped count (42_driver_api.md R105). -/
theorem execWrarr_short {start length : Byte} {data : List Byte} {a : GridAddr} (hlife : s.life = .active)
    (ha : a.val = start.toNat) (hshort : data.length < runCount a length) :
    execWrarr start length data s = .refused .payloadTooShort := by
  rw [execWrarr, State.whenActive_active hlife, gridAddr?_some ha]
  exact if_pos hshort

/-- `writeBlock` on its own refuses a block outside its operand range (40_bus_protocol.md R78). -/
theorem execWriteBlock_long {a : GridAddr} {bytes : List Byte} (hlong : 16 < a.val + bytes.length) :
    execWriteBlock a bytes s = .refused .blockTooLong := by
  rw [execWriteBlock, if_neg (by omega)]

/-- Settles O19. -/
theorem casesWithoutMeaningAreRefused : Obligations.CasesWithoutMeaningAreRefused := by
  unfold Obligations.CasesWithoutMeaningAreRefused
  exact ⟨fun _ => rfl,
    fun start _ _ _ hlife hstart hshort => execWrarr_short (a := ⟨start.toNat, hstart⟩) hlife rfl hshort,
    fun _ _ _ hlong => execWriteBlock_long hlong⟩

end Sys2Proof.Machine
end

section
/-! SUPPORT. The bus protocol (40_bus_protocol.md): where a run of events leaves the two lines, at which of its events the
START and STOP conditions hold, and each bus primitive as the run of events that it emits. -/

namespace Sys2Proof.Machine

/-! ### Where a run of events leaves the lines -/

/-- The pair `(CLK, DAT)` after a run of events: R70, event after event. -/
def linesAfterAll (p : Level × Level) (es : List Event) : Level × Level := es.foldl (fun q e => linesAfter e q) p

theorem linesAfterAll_append (p : Level × Level) (es fs : List Event) :
    linesAfterAll p (es ++ fs) = linesAfterAll (linesAfterAll p es) fs := List.foldl_append

/-- The latches of the model follow R70. -/
theorem Wire.foldl_step_lines (es : List Event) (w : Wire) :
    ((es.foldl Wire.step w).clk, (es.foldl Wire.step w).dat) = linesAfterAll (w.clk, w.dat) es := by
  induction es generalizing w with
  | nil => rfl
  | cons e es ih => rw [List.foldl_cons, ih, Wire.step_lines, linesAfterAll, linesAfterAll, List.foldl_cons]

/-- The waveform ends where the events leave the lines. -/
theorem waveform_getLastD (p : Level × Level) (es : List Event) :
    (waveform p es).getLastD p = linesAfterAll p es := by
  induction es generalizing p with
  | nil => rfl
  | cons e es ih => rw [waveform, List.getLastD_cons, ih, linesAfterAll, linesAfterAll, List.foldl_cons]

/-- Settles O11: both are R70, event after event. -/
theorem latchesAreTheEndOfTheWaveform : Obligations.LatchesAreTheEndOfTheWaveform := by
  unfold Obligations.LatchesAreTheEndOfTheWaveform
  intro es w
  rw [Wire.foldl_step_lines, waveform_getLastD]

/-- The latches of a state that has emitted a run of events. -/
theorem State.emits_lines (s : State) (es : List Event) :
    ((s.emits es).clk, (s.emits es).dat) = linesAfterAll (s.clk, s.dat) es := by
  rw [State.clk, State.dat, State.emits_wire, Wire.foldl_step_lines]

theorem State.emits_clk (s : State) (es : List Event) :
    (s.emits es).clk = (linesAfterAll (s.clk, s.dat) es).1 := congrArg Prod.fst (s.emits_lines es)

theorem State.emits_dat (s : State) (es : List Event) :
    (s.emits es).dat = (linesAfterAll (s.clk, s.dat) es).2 := congrArg Prod.snd (s.emits_lines es)

theorem linesAfterAll_start (p : Level × Level) : linesAfterAll p startEvents = (.low, .low) := rfl

theorem linesAfterAll_stop (p : Level × Level) : linesAfterAll p stopEvents = (.high, .high) := rfl

theorem linesAfterAll_cell (p : Level × Level) (v : Bool) :
    linesAfterAll p (cellEvents v) = (.high, Level.ofBool v) := rfl

/-- A byte leaves the clock high and the data line at its last cell, bit 7. -/
theorem linesAfterAll_byte (p : Level × Level) (b : Byte) :
    linesAfterAll p (byteEvents b) = (.high, Level.ofBool (b.getLsbD 7)) := by
  simp only [byteEvents_eq, linesAfterAll_append, linesAfterAll_cell]

/-! ### The cells of a byte -/

/-- `n` rounds of the shifting loop send the cells of bits `0` to `n - 1`, in order (R75). -/
theorem shiftCells_eq (n : Nat) (x : Byte) :
    shiftCells n x = (List.range n).flatMap fun i => cellEvents (x.getLsbD i) := by
  induction n generalizing x with
  | zero => rfl
  | succ n ih =>
    have hshift (i : Nat) : (x >>> 1).getLsbD i = x.getLsbD (i + 1) := by
      rw [BitVec.getLsbD_ushiftRight, Nat.add_comm]
    simp only [shiftCells, ih, hshift, List.range_succ_eq_map, List.flatMap_cons, List.flatMap_map, Nat.succ_eq_add_one]

/-- A byte is the cells of its eight bits, least-significant first (R75). -/
theorem byteEvents_eq_cells (b : Byte) :
    byteEvents b = (List.range 8).flatMap fun i => cellEvents (b.getLsbD i) := shiftCells_eq 8 b

/-! ### Where START and STOP conditions hold -/

/-- The conditions on a waveform of two parts: those of the first, then those of the second from where the first leaves
the lines. -/
theorem conditionsAt_append (cond : Level × Level → Level × Level → Bool) (es fs : List Event) (p : Level × Level)
    (n : Nat) :
    conditionsAt cond p n (waveform p (es ++ fs)) =
      conditionsAt cond p n (waveform p es) ++
        conditionsAt cond (linesAfterAll p es) (n + es.length) (waveform (linesAfterAll p es) fs) := by
  induction es generalizing p n with
  | nil => rfl
  | cons e es ih =>
    have hlines : linesAfterAll p (e :: es) = linesAfterAll (linesAfter e p) es := rfl
    have hcount : n + (e :: es).length = n + 1 + es.length := by rw [List.length_cons]; omega
    rw [List.cons_append, waveform, waveform, conditionsAt, conditionsAt, ih, hlines, hcount]
    split
    · rw [List.cons_append]
    · rfl

/-- A condition that holds only where the data line changes while the clock is high, as START and STOP do (R81). -/
def NeedsDataEdge (cond : Level × Level → Level × Level → Bool) : Prop :=
  ∀ p q, cond p q = true → p.1 = .high ∧ q.1 = .high ∧ p.2 ≠ q.2

theorem isStart_needsDataEdge : NeedsDataEdge isStart := by
  rintro ⟨c, d⟩ ⟨c', d'⟩ h
  simp only [isStart, Bool.and_eq_true, beq_iff_eq] at h
  obtain ⟨⟨⟨rfl, rfl⟩, rfl⟩, rfl⟩ := h
  decide

theorem isStop_needsDataEdge : NeedsDataEdge isStop := by
  rintro ⟨c, d⟩ ⟨c', d'⟩ h
  simp only [isStop, Bool.and_eq_true, beq_iff_eq] at h
  obtain ⟨⟨⟨rfl, rfl⟩, rfl⟩, rfl⟩ := h
  decide

/-- From any levels the condition holds at no event of the run. -/
def Quiet (cond : Level × Level → Level × Level → Bool) (es : List Event) : Prop :=
  ∀ p n, conditionsAt cond p n (waveform p es) = []

section
variable {cond : Level × Level → Level × Level → Bool}

/-- A run is quiet when its parts are. -/
theorem Quiet.flatMap {α : Type} {f : α → List Event} (h : ∀ x, Quiet cond (f x)) (xs : List α) :
    Quiet cond (xs.flatMap f) := by
  induction xs with
  | nil => exact fun _ _ => rfl
  | cons x xs ih =>
    intro p n
    rw [List.flatMap_cons, conditionsAt_append, h x, ih, List.append_nil]

/-- The condition fails where the clock is not high throughout or the data line stays. -/
theorem NeedsDataEdge.eq_false (h : NeedsDataEdge cond) {p q : Level × Level}
    (hpq : p.1 = .high → q.1 = .high → p.2 = q.2) : cond p q = false := by
  refine Bool.eq_false_iff.mpr fun hcond => ?_
  obtain ⟨hp, hq, hne⟩ := h p q hcond
  exact hne (hpq hp hq)

/-- In a bit cell the data line changes only while the clock is low. -/
theorem NeedsDataEdge.quiet_cell (h : NeedsDataEdge cond) (v : Bool) : Quiet cond (cellEvents v) := by
  have hfall (p : Level × Level) (d : Level) : cond p (.low, d) = false := h.eq_false fun _ hq => nomatch hq
  have hrise (d : Level) (q : Level × Level) : cond (.low, d) q = false := h.eq_false fun hp => nomatch hp
  have hsame (p : Level × Level) : cond p p = false := h.eq_false fun _ _ => rfl
  intro p n
  simp [cellEvents, waveform, linesAfter, conditionsAt, Level.ofBool, hfall, hrise, hsame]

/-- No byte of a frame holds a START or STOP condition. -/
theorem NeedsDataEdge.quiet_bytes (h : NeedsDataEdge cond) (bytes : List Byte) :
    Quiet cond (bytes.flatMap byteEvents) := by
  refine Quiet.flatMap (fun b => ?_) bytes
  rw [byteEvents_eq_cells]
  exact Quiet.flatMap (fun i => h.quiet_cell (b.getLsbD i)) _

/-- The conditions of a frame are those of its START part and those of its STOP part. -/
theorem NeedsDataEdge.conditionsAt_frame (h : NeedsDataEdge cond) (p : Level × Level) (n : Nat) (bytes : List Byte) :
    ∃ q, conditionsAt cond p n (waveform p (frameEvents bytes)) =
      conditionsAt cond p n (waveform p startEvents) ++
        conditionsAt cond q (n + 7 + 48 * bytes.length) (waveform q stopEvents) := by
  have hcount : n + (startEvents ++ bytes.flatMap byteEvents).length = n + 7 + 48 * bytes.length := by
    have hstart : startEvents.length = 7 := rfl
    rw [List.length_append, flatMap_byteEvents_length, hstart]
    omega
  refine ⟨linesAfterAll p (startEvents ++ bytes.flatMap byteEvents), ?_⟩
  rw [frameEvents, conditionsAt_append, conditionsAt_append, h.quiet_bytes bytes, List.append_nil, hcount]

end

/-- `start()` raises both lines before the data line falls: the one START condition is its fourth event (R73). -/
theorem conditionsAt_isStart_start (p : Level × Level) (n : Nat) :
    conditionsAt isStart p n (waveform p startEvents) = [n + 3] := by
  simp [startEvents, waveform, linesAfter, conditionsAt, isStart, Level.ofBool]

/-- `start()` from the idle bus has no STOP condition: the data line is high already. -/
theorem conditionsAt_isStop_start_idle (n : Nat) :
    conditionsAt isStop (.high, .high) n (waveform (.high, .high) startEvents) = [] := by
  simp [startEvents, waveform, linesAfter, conditionsAt, isStop, Level.ofBool]

/-- `stop()` drops the data line only after the clock: no START condition (R74). -/
theorem conditionsAt_isStart_stop (p : Level × Level) (n : Nat) :
    conditionsAt isStart p n (waveform p stopEvents) = [] := by
  simp [stopEvents, waveform, linesAfter, conditionsAt, isStart, Level.ofBool]

/-- `stop()` drops both lines before they rise, the clock first: the one STOP condition is its sixth event (R74). -/
theorem conditionsAt_isStop_stop (p : Level × Level) (n : Nat) :
    conditionsAt isStop p n (waveform p stopEvents) = [n + 5] := by
  simp [stopEvents, waveform, linesAfter, conditionsAt, isStop, Level.ofBool]

/-- Settles O13: the bytes between START and STOP hold no condition. -/
theorem frameHasOneStartAndOneStopCondition : Obligations.FrameHasOneStartAndOneStopCondition := by
  unfold Obligations.FrameHasOneStartAndOneStopCondition
  intro bytes
  obtain ⟨p, hstart⟩ := isStart_needsDataEdge.conditionsAt_frame (.high, .high) 1 bytes
  obtain ⟨q, hstop⟩ := isStop_needsDataEdge.conditionsAt_frame (.high, .high) 1 bytes
  constructor
  · rw [hstart, conditionsAt_isStart_start, conditionsAt_isStart_stop, List.append_nil]
  · rw [hstop, conditionsAt_isStop_start_idle, conditionsAt_isStop_stop, List.nil_append]
    congr 1
    omega

/-! ### The primitives that emit part of a frame -/

/-- Settles O20. -/
theorem delayEmitsOneDelayEvent : Obligations.DelayEmitsOneDelayEvent := by
  unfold Obligations.DelayEmitsOneDelayEvent
  intro s
  obtain ⟨-, hframe⟩ := s.emits_spec [.dly]
  exact ⟨_, rfl, s.emits_trace _, s.emits_clk _, s.emits_dat _, hframe⟩

/-- Settles O21. -/
theorem driveCallsSetOneLatch : Obligations.DriveCallsSetOneLatch := by
  unfold Obligations.DriveCallsSetOneLatch
  intro v s
  obtain ⟨hclk, hclkFrame⟩ := s.emits_spec [.clk v]
  obtain ⟨hdat, hdatFrame⟩ := s.emits_spec [.dat v]
  exact ⟨⟨_, rfl, hclk, s.emits_clk _, s.emits_dat _, hclkFrame⟩,
    ⟨_, rfl, hdat, s.emits_dat _, s.emits_clk _, hdatFrame⟩⟩

/-- Settles O22. -/
theorem startDropsDataWhileClockIsHigh : Obligations.StartDropsDataWhileClockIsHigh := by
  unfold Obligations.StartDropsDataWhileClockIsHigh
  intro s
  obtain ⟨hemits, hframe⟩ := s.emits_spec startEvents
  refine ⟨s.emits startEvents, startEvents, rfl, rfl, hemits, rfl, ?_, ?_, conditionsAt_isStart_start _ 1, hframe⟩
  · rw [State.emits_clk, linesAfterAll_start]
  · rw [State.emits_dat, linesAfterAll_start]

/-- Settles O23. -/
theorem stopRaisesDataWhileClockIsHigh : Obligations.StopRaisesDataWhileClockIsHigh := by
  unfold Obligations.StopRaisesDataWhileClockIsHigh
  intro s
  obtain ⟨hemits, hframe⟩ := s.emits_spec stopEvents
  have hidle : (s.emits stopEvents).BusIdle := by
    rw [State.BusIdle, State.emits_clk, State.emits_dat, linesAfterAll_stop]
    exact ⟨rfl, rfl⟩
  exact ⟨s.emits stopEvents, stopEvents, rfl, rfl, hemits, rfl, hidle, conditionsAt_isStart_stop _ 1,
    conditionsAt_isStop_stop _ 1, hframe⟩

/-- Settles O24: the shifting loop sends the cells of the byte's bits. -/
theorem writeByteSerialisesLeastSignificantFirst : Obligations.WriteByteSerialisesLeastSignificantFirst := by
  unfold Obligations.WriteByteSerialisesLeastSignificantFirst
  intro b s
  obtain ⟨hemits, hframe⟩ := s.emits_spec (byteEvents b)
  refine ⟨s.emits (byteEvents b), byteEvents b, rfl, byteEvents_eq_cells b, hemits, byteEvents_length b,
    dlyCount_byteEvents b, ?_, ?_, hframe⟩
  · rw [State.emits_clk, linesAfterAll_byte]
  · rw [State.emits_dat, linesAfterAll_byte]

/-- Settles O26: `writeAddress` is `writeByte` of the address command. -/
theorem writeAddressWritesTheAddressCommand : Obligations.WriteAddressWritesTheAddressCommand := by
  unfold Obligations.WriteAddressWritesTheAddressCommand
  intro a s
  obtain ⟨-, hframe⟩ := s.emits_spec (byteEvents (buildAddress a))
  refine ⟨s.emits (byteEvents (buildAddress a)), rfl, rfl, ?_, hframe⟩
  rw [State.emits_trace, List.length_append, byteEvents_length]

/-- Settles O28. -/
theorem releaseLinesForgetsBothLatches : Obligations.ReleaseLinesForgetsBothLatches := by
  unfold Obligations.ReleaseLinesForgetsBothLatches
  intro s
  obtain ⟨hemits, hframe⟩ := s.emits_spec [.rel]
  exact ⟨s.emits [.rel], rfl, hemits, s.emits_clk _, s.emits_dat _, hframe⟩

/-! ### The primitives that emit a whole frame -/

/-- What a frame of `k` bytes adds to the trace: `14 + 48k` events, `6 + 24k` of them `DLY` (30_encoding.md R52). -/
theorem State.emits_frame_counts (s : State) (bytes : List Byte) :
    (s.emits (frameEvents bytes)).trace.length = s.trace.length + (14 + 48 * bytes.length) ∧
    dlyCount (s.emits (frameEvents bytes)).trace = dlyCount s.trace + (6 + 24 * bytes.length) := by
  rw [State.emits_trace, List.length_append, dlyCount_append, frameEvents_length, dlyCount_frameEvents]
  exact ⟨rfl, rfl⟩

/-- Settles O25: the three primitives one after another are one frame of one byte. -/
theorem sendCommandIsStartByteStop : Obligations.SendCommandIsStartByteStop := by
  unfold Obligations.SendCommandIsStartByteStop
  intro b s
  obtain ⟨-, hframe⟩ := s.emits_spec (frameEvents [b])
  obtain ⟨hlength, hdly⟩ := s.emits_frame_counts [b]
  refine ⟨s.busStart, s.busStart.busWriteByte b, s.sendCommand b, rfl, rfl, rfl, rfl, ?_⟩
  rw [State.sendCommand_eq]
  exact ⟨hlength, hdly, s.busIdle_emits_frame [b], hframe⟩

/-- Settles O27: the block is one frame, of the address command and the bytes. -/
theorem writeBlockIsOneDataFrame : Obligations.WriteBlockIsOneDataFrame := by
  unfold Obligations.WriteBlockIsOneDataFrame
  intro a bytes s hfits
  have hgoes : exec (.writeBlock a bytes) s = .next (s.emits (frameEvents (buildAddress a :: bytes))) := by
    rw [← State.writeBlock_eq]
    exact if_pos hfits
  have hevents : frameEvents (buildAddress a :: bytes) =
      startEvents ++ byteEvents (buildAddress a) ++ bytes.flatMap byteEvents ++ stopEvents := by
    rw [frameEvents, List.flatMap_cons, ← List.append_assoc]
  obtain ⟨hemits, hframe⟩ := s.emits_spec (frameEvents (buildAddress a :: bytes))
  obtain ⟨hlength, hdly⟩ := s.emits_frame_counts (buildAddress a :: bytes)
  rw [List.length_cons] at hlength hdly
  refine ⟨_, hgoes, hevents ▸ hemits, ?_, ?_, s.busIdle_emits_frame _, hframe⟩
  · rw [hlength]
    omega
  · rw [hdly]
    omega

end Sys2Proof.Machine
end

section
/-! SUPPORT. The encoder functions (41_command_encoder.md): the value of each byte as R91 to R93 give it with the default
parameters (log 13, 14), and the settled statements. That performing one changes `encRet` alone (R90) is
`State.setEncRet_spec`. -/

namespace Sys2Proof.Machine

/-! ### The bytes they build -/

/-- The flag of auto-increment is 0, so that nothing is added to the base (R91). -/
theorem buildDataCommand_autoIncrement : buildDataCommand .autoIncrement = Config.dataCmdBase := by decide

/-- The display control byte for display off is one byte, whatever the brightness (R92). -/
theorem buildDisplayControl_off (brightness : Byte) : buildDisplayControl false brightness = 0x80#8 := rfl

/-- A level lies below the bits of the display control byte, so that joining it is adding it. -/
theorem buildDisplayControl_on_toNat (l : Brightness) :
    (buildDisplayControl true (l.setWidth 8)).toNat = 0x88 + l.toNat := by
  rw [buildDisplayControl_on]
  revert l
  decide

/-- A grid address lies below the bits of `ADDR_CMD_BASE`, so that joining it is adding it (R93). -/
theorem buildAddress_toNat (a : GridAddr) : (buildAddress a).toNat = 0xC0 + a.val := by
  revert a
  decide

/-! ### The functions performed on their own -/

/-- Settles O29, by the two modes of addressing. -/
theorem buildDataCommandReturnsBaseAndFlag : Obligations.BuildDataCommandReturnsBaseAndFlag := by
  unfold Obligations.BuildDataCommandReturnsBaseAndFlag
  intro m s
  obtain ⟨hret, hframe⟩ := s.setEncRet_spec (buildDataCommand m)
  refine ⟨s.setEncRet (buildDataCommand m), rfl, ?_⟩
  rw [hret]
  cases m with
  | fixed => exact ⟨rfl, fun _ => rfl, nofun, hframe⟩
  | autoIncrement => exact ⟨rfl, nofun, fun _ => buildDataCommand_autoIncrement, hframe⟩

/-- Settles O30: the byte takes the low three bits of the brightness, which are its remainder by 8. -/
theorem buildDisplayControlMasksTheBrightness : Obligations.BuildDisplayControlMasksTheBrightness := by
  unfold Obligations.BuildDisplayControlMasksTheBrightness
  intro enabled brightness s
  obtain ⟨hret, hframe⟩ := s.setEncRet_spec (buildDisplayControl enabled brightness)
  obtain ⟨hmod, hbyte⟩ := lowThree_spec brightness
  refine ⟨s.setEncRet (buildDisplayControl enabled brightness), rfl, ?on, ?off, hframe⟩
  case on =>
    rintro rfl
    rw [hret, ← hbyte, buildDisplayControl_on_toNat, hmod]
  case off =>
    rintro rfl
    rw [hret, buildDisplayControl_off]

/-- Settles O31. -/
theorem buildAddressAddsTheGridAddress : Obligations.BuildAddressAddsTheGridAddress := by
  unfold Obligations.BuildAddressAddsTheGridAddress
  intro a s
  obtain ⟨hret, hframe⟩ := s.setEncRet_spec (buildAddress a)
  refine ⟨s.setEncRet (buildAddress a), rfl, ?_, hframe⟩
  rw [hret, buildAddress_toNat]

end Sys2Proof.Machine
end

section
/-! SUPPORT. The driver operations (42_driver_api.md): each by its inversion, through what it sends, a list of whole
frames (R113), and what it makes of the buffer. -/

namespace Sys2Proof.Machine

variable {s t u : State}

/-! ### Whole frames -/

/-- What was emitted is whole frames, `fs` in order. -/
def State.Sends (s t : State) (fs : List (List Byte)) : Prop := s.Emits t (fs.flatMap frameEvents)

theorem State.sends_one_iff {f : List Byte} : s.Sends t [f] ↔ s.Emits t (frameEvents f) := by
  rw [State.Sends, List.flatMap_cons, List.flatMap_nil, List.append_nil]

theorem State.sends_two_iff {f g : List Byte} : s.Sends t [f, g] ↔ s.Emits t (frameEvents f ++ frameEvents g) := by
  rw [State.Sends, List.flatMap_cons, List.flatMap_cons, List.flatMap_nil, List.append_nil]

theorem State.sends_three_iff {f g k : List Byte} :
    s.Sends t [f, g, k] ↔ s.Emits t (frameEvents f ++ frameEvents g ++ frameEvents k) := by
  rw [State.Sends, List.flatMap_cons, List.flatMap_cons, List.flatMap_cons, List.flatMap_nil, List.append_nil,
    List.append_assoc]

/-- What is emitted by two operations, one after the other. -/
theorem State.Emits.trans {es fs : List Event} (h : s.Emits t es) (h' : t.Emits u fs) : s.Emits u (es ++ fs) := by
  obtain ⟨htrace, hwire⟩ := h
  obtain ⟨htrace', hwire'⟩ := h'
  exact ⟨by rw [htrace', htrace, List.append_assoc], by rw [hwire', hwire, List.foldl_append]⟩

/-- What a run of events adds to the trace. -/
theorem State.Emits.counts {es : List Event} (h : s.Emits t es) :
    t.trace.length = s.trace.length + es.length ∧ dlyCount t.trace = dlyCount s.trace + dlyCount es := by
  obtain ⟨htrace, -⟩ := h
  rw [htrace, List.length_append, dlyCount_append]
  exact ⟨rfl, rfl⟩

/-- Whole frames are `14 + 48k` events each, `6 + 24k` of them `DLY` (30_encoding.md R52). -/
theorem flatMap_frameEvents_counts (fs : List (List Byte)) :
    (fs.flatMap frameEvents).length = 14 * fs.length + 48 * fs.flatten.length ∧
    dlyCount (fs.flatMap frameEvents) = 6 * fs.length + 24 * fs.flatten.length := by
  induction fs with
  | nil => exact ⟨rfl, rfl⟩
  | cons f fs ih =>
    obtain ⟨hlength, hdly⟩ := ih
    simp only [List.flatMap_cons, List.length_append, dlyCount_append, frameEvents_length, dlyCount_frameEvents,
      hlength, hdly, List.length_cons, List.flatten_cons]
    omega

/-- What the frames sent add to the trace. -/
theorem State.Sends.counts {fs : List (List Byte)} (h : s.Sends t fs) :
    t.trace.length = s.trace.length + (14 * fs.length + 48 * fs.flatten.length) ∧
    dlyCount t.trace = dlyCount s.trace + (6 * fs.length + 24 * fs.flatten.length) := by
  obtain ⟨hlength, hdly⟩ := flatMap_frameEvents_counts fs
  rw [← hlength, ← hdly]
  exact State.Emits.counts h

/-- Once a frame has been sent last the bus is idle. -/
theorem State.Sends.busIdle {fs : List (List Byte)} (h : s.Sends t fs) (hsome : fs ≠ []) : t.BusIdle := by
  obtain ⟨-, hwire⟩ := h
  rw [← List.dropLast_append_getLast hsome, List.flatMap_append, List.flatMap_singleton, List.foldl_append] at hwire
  rw [State.BusIdle, State.clk, State.dat, hwire]
  exact idle_after_frame _ _

/-- Whole frames appended to a trace that leaves no frame open add themselves to `frames(TRACE)` (20_memory.md R43). -/
theorem frames_append_flatMap (tr : List Event) (h : (tr.foldl Wire.step Wire.reset).rx = none)
    (fs : List (List Byte)) : frames (tr ++ fs.flatMap frameEvents) = frames tr ++ fs := by
  induction fs generalizing tr with
  | nil => simp
  | cons f fs ih =>
    have hclosed : ((tr ++ frameEvents f).foldl Wire.step Wire.reset).rx = none := by
      rw [List.foldl_append, foldl_step_frame _ h]
    rw [List.flatMap_cons, ← List.append_assoc, ih _ hclosed, frames_append_frame tr h, List.append_assoc,
      List.singleton_append]

/-- Under the invariant no frame is open, and what an operation sends is what `frames(TRACE)` grows by. -/
theorem State.Sends.frames_trace {fs : List (List Byte)} (h : s.Sends t fs) (hinv : MachineInvariant s) :
    frames t.trace = frames s.trace ++ fs := by
  obtain ⟨-, -, hrx, -, hwire, -⟩ := hinv
  obtain ⟨htrace, -⟩ := h
  rw [htrace]
  exact frames_append_flatMap s.trace (hwire ▸ hrx) fs

/-- What an operation emits does not depend on the fields that the lines do not read. -/
theorem State.Silent.sends {fs : List (List Byte)} (hsilent : s.Silent t) (h : t.Sends u fs) : s.Sends u fs := by
  obtain ⟨htrace, hwire⟩ := hsilent
  rw [State.Sends, State.Emits, ← htrace, ← hwire]
  exact h

/-- A silent operation sends no frame. -/
theorem State.Silent.frames_trace (h : s.Silent t) : frames t.trace = frames s.trace ++ [] := by
  obtain ⟨htrace, -⟩ := h
  rw [htrace, List.append_nil]

theorem State.silent_returnNothing (s : State) : s.Silent s.returnNothing :=
  ⟨s.returnNothing_trace, s.returnNothing_wire⟩

theorem State.silent_returnByte (s : State) (v : Byte) : s.Silent (s.returnByte v) :=
  ⟨s.returnByte_trace v, s.returnByte_wire v⟩

theorem State.silent_setEn (s : State) (v : Bool) : s.Silent (s.setEn v) := ⟨s.setEn_trace v, s.setEn_wire v⟩

theorem State.silent_setBrt (s : State) (v : Brightness) : s.Silent (s.setBrt v) := ⟨s.setBrt_trace v, s.setBrt_wire v⟩

/-! ### Admission -/

/-- In ACTIVE every host operation within its operand range goes on (R100). -/
theorem exec_completes_of_active {i : Instr} (hlife : s.life = .active) (hi : needsActive i = true)
    (hwf : wellFormed i = true) : ∃ t, exec i s = .next t := by
  cases i with
  | deinit | setbrt | seton | clear | flush | test => exact ⟨_, State.whenActive_active hlife _⟩
  | wrgrid | getbuf | setbuf =>
    simp only [exec, execWrgrid, execGetbuf, execSetbuf, State.whenActive_active hlife]
    split <;> exact ⟨_, rfl⟩
  | setbit address mask set =>
    simp only [exec, execSetbit, State.whenActive_active hlife]
    cases set <;> split <;> exact ⟨_, rfl⟩
  | wrarr start length data =>
    simp only [exec, execWrarr, State.whenActive_active hlife]
    cases hstart : gridAddr? start with
    | none => exact ⟨_, rfl⟩
    | some a =>
      have ha := gridAddr?_eq_some.mp hstart
      have hbytes : runCount a length ≤ data.length := by
        simp only [wellFormed, WellFormed.arrayHasItsBytes, Bool.or_eq_true, decide_eq_true_eq] at hwf
        rw [WellFormed.clampedCount] at hwf
        rw [runCount]
        omega
      exact ⟨_, if_neg (by omega)⟩
  | _ => cases hi

/-! ### Runs of cells -/

/-- What an operation leaves that sets the buffer to `m`, sends a run and returns nothing (R103, R105, R109, R112). -/
theorem State.storeAndSend_spec {m : Memory} {a : GridAddr} {bytes : List Byte}
    (ht : t = ((s.setBuf m).sendRun a bytes).returnNothing) :
    t.buf = m ∧ s.Sends t [[buildDataCommand .autoIncrement], buildAddress a :: bytes] ∧ s.KeepsControl t ∧
    s.ReturnsNothing t := by
  subst ht
  simp [State.sends_two_iff, State.Emits, State.KeepsControl, State.ReturnsNothing, State.sendRun_eq]

/-- The same, with the counts of a run of `n` bytes: `124 + 48n` events, `60 + 24n` of them `DLY`. -/
theorem State.storeAndSend_emits {m : Memory} {a : GridAddr} {bytes : List Byte}
    (ht : t = ((s.setBuf m).sendRun a bytes).returnNothing) :
    s.Emits t (frameEvents [buildDataCommand .autoIncrement] ++ frameEvents (buildAddress a :: bytes)) ∧
    t.trace.length = s.trace.length + (124 + 48 * bytes.length) ∧
    dlyCount t.trace = dlyCount s.trace + (60 + 24 * bytes.length) ∧ t.BusIdle ∧
    s.KeepsControl t ∧ s.ReturnsNothing t := by
  obtain ⟨-, hsends, hframe⟩ := State.storeAndSend_spec ht
  obtain ⟨hlength, hdly⟩ := hsends.counts
  simp only [List.length_cons, List.length_nil, List.flatten_cons, List.flatten_nil, List.length_append] at hlength hdly
  exact ⟨State.sends_two_iff.mp hsends, by omega, by omega, hsends.busIdle (List.cons_ne_nil _ _), hframe⟩

/-- Filling the buffer and sending it (R103, R112). -/
theorem State.fillAndSend_spec {v : Byte} (hbuf : s.buf.wf = true)
    (ht : t = ((s.fillBuffer v).sendRun 0 (List.replicate 16 v)).returnNothing) :
    (∀ a : GridAddr, t.buf.read a = v) ∧
    s.Emits t (frameEvents [buildDataCommand .autoIncrement] ++ frameEvents (buildAddress 0 :: List.replicate 16 v)) ∧
    t.trace.length = s.trace.length + 892 ∧ dlyCount t.trace = dlyCount s.trace + 444 ∧ t.BusIdle ∧
    s.KeepsControl t ∧ s.ReturnsNothing t := by
  obtain ⟨hfill, -⟩ := State.storeAndSend_spec ht
  obtain ⟨hemits, hlength, hdly, hframe⟩ := State.storeAndSend_emits ht
  rw [List.length_replicate] at hlength hdly
  exact ⟨fun a => by rw [hfill, Memory.read_fill hbuf], hemits, hlength, hdly, hframe⟩

/-- Settles O37. -/
theorem clearZeroesBufferInOneTransaction : Obligations.ClearZeroesBufferInOneTransaction := by
  unfold Obligations.ClearZeroesBufferInOneTransaction
  exact fun s hlife hbuf => ⟨_, State.whenActive_active hlife _, State.fillAndSend_spec hbuf rfl⟩

/-- Settles O45. -/
theorem testLightsEverySegment : Obligations.TestLightsEverySegment := by
  unfold Obligations.TestLightsEverySegment
  exact fun s hlife hbuf => ⟨_, State.whenActive_active hlife _, State.fillAndSend_spec (v := Config.allOn) hbuf rfl⟩

/-- `flush()` stores the buffer that it finds. -/
theorem State.flush_eq (ht : t = (s.sendRun 0 s.buf.bytes).returnNothing) :
    t = ((s.setBuf s.buf).sendRun 0 s.buf.bytes).returnNothing := by
  have hself : s.setBuf s.buf = s := by
    cases s
    rfl
  rw [hself, ht]

/-- Settles O44: the buffer is sent as it stands. -/
theorem flushSendsTheWholeBuffer : Obligations.FlushSendsTheWholeBuffer := by
  unfold Obligations.FlushSendsTheWholeBuffer
  intro s hlife
  have ht := State.flush_eq (s := s) rfl
  obtain ⟨hbuf, -⟩ := State.storeAndSend_spec ht
  obtain ⟨hemits, hlength, hdly, hidle, hframe⟩ := State.storeAndSend_emits ht
  rw [Memory.bytes_length] at hlength hdly
  exact ⟨_, s.buf.bytes, State.whenActive_active hlife _, s.buf.bytes_length,
    fun a => List.getElem?_eq_some_iff.mpr ⟨_, s.buf.bytes_getElem a⟩, hemits, hlength, hdly, hidle,
    fun a => by rw [hbuf], hframe⟩

/-- Inside a run of writes each cell holds its byte of the list. -/
theorem Memory.getElem?_writeRun {m : Memory} (hm : m.wf = true) {bytes : List Byte} {p : Nat}
    (hfit : p + bytes.length ≤ 16) {b : GridAddr} (hle : p ≤ b.val) (hlt : b.val < p + bytes.length) :
    bytes[b.val - p]? = some ((m.writeRun p bytes).read b) := by
  have hin : p ≤ b.val ∧ b.val - p < bytes.length := by omega
  rw [Memory.read_writeRun bytes p hm hfit, dif_pos hin, List.getElem?_eq_getElem]

/-- Settles O39: the clamped count of bytes is stored as one run and sent as one run. -/
theorem writeGridArrayWritesTheClampedRun : Obligations.WriteGridArrayWritesTheClampedRun := by
  unfold Obligations.WriteGridArrayWritesTheClampedRun
  intro start length data s a n hlife hbuf ha hn hpay
  obtain rfl : n = runCount a length := by rw [runCount, ha, hn]
  have hlen : (data.take (runCount a length)).length = runCount a length := List.length_take_of_le hpay
  have hfit : a.val + (data.take (runCount a length)).length ≤ 16 := by rw [hlen, runCount]; omega
  have hwf : wellFormed (.wrarr start length data) = true := by
    simp [wellFormed, WellFormed.arrayHasItsBytes, WellFormed.clampedCount, ← hn, hpay]
  obtain ⟨t, h⟩ := exec_completes_of_active hlife rfl hwf
  refine ⟨t, h, ?_⟩
  obtain ⟨hge, -⟩ | ⟨a', ha', -, ht⟩ := execWrarr_next h
  · omega
  obtain rfl : a' = a := Fin.ext (ha'.trans ha.symm)
  obtain ⟨hrun, -⟩ := State.storeAndSend_spec ht
  obtain ⟨hemits, hlength, hdly, hframe⟩ := State.storeAndSend_emits ht
  rw [hlen] at hlength hdly
  rw [hrun]
  refine ⟨fun b hle hlt => ?inside, fun b hout => ?outside, hemits, hlength, hdly, hframe⟩
  case inside =>
    rw [← Memory.getElem?_writeRun hbuf hfit hle (by omega), List.getElem?_take_of_lt (by omega)]
  case outside =>
    rw [hrun]
    exact Memory.read_writeRun_outside hbuf hfit (by omega)

/-- Settles O40: past grid 15 the payload is never looked at. -/
theorem writeGridArrayOutsideTheGridsDoesNothing : Obligations.WriteGridArrayOutsideTheGridsDoesNothing := by
  unfold Obligations.WriteGridArrayOutsideTheGridsDoesNothing
  intro start length data s hlife hge
  have hwf : wellFormed (.wrarr start length data) = true := by
    simp [wellFormed, WellFormed.arrayHasItsBytes, hge]
  obtain ⟨t, h⟩ := exec_completes_of_active hlife rfl hwf
  obtain ⟨-, rfl⟩ | ⟨a, ha, -⟩ := execWrarr_next h
  · obtain ⟨hret, hbuf, hsilent, hcontrol⟩ := s.returnNothing_spec
    exact ⟨_, h, hbuf, hsilent, hcontrol, hret⟩
  · omega

/-! ### Single cells -/

/-- One cell written: it takes the byte and every other cell reads as before. -/
theorem State.writeCell_spec (hbuf : s.buf.wf = true) {a : GridAddr} {v : Byte} (ht : t.buf = s.buf.write a v) :
    t.buf.read a = v ∧ s.KeepsBufferOutside t (fun b => b = a) := by
  rw [ht, Memory.read_write hbuf, if_pos rfl]
  refine ⟨rfl, fun b hb => ?_⟩
  rw [ht, Memory.read_write hbuf, if_neg (Ne.symm hb)]

/-- Staging sends nothing and changes the buffer alone (R107, R108). -/
theorem State.stage_spec {m : Memory} (ht : t = (s.setBuf m).returnNothing) :
    t.buf = m ∧ s.Silent t ∧ s.KeepsControl t ∧ s.ReturnsNothing t := by
  subst ht
  simp [State.Silent, State.KeepsControl, State.ReturnsNothing]

/-- What `writeGrid` leaves below grid 16: one cell stored, the data command and one data byte sent (R104). -/
theorem State.storeCellAndSend_spec {a : GridAddr} {v : Byte}
    (ht : t = (((s.setBuf (s.buf.write a v)).sendCommand (buildDataCommand .fixed)).writeBlock a [v]).returnNothing) :
    t.buf = s.buf.write a v ∧ s.Sends t [[buildDataCommand .fixed], [buildAddress a, v]] ∧ s.KeepsControl t ∧
    s.ReturnsNothing t := by
  subst ht
  simp [State.sends_two_iff, State.Emits, State.KeepsControl, State.ReturnsNothing, State.sendCommand_eq,
    State.writeBlock_eq]

/-- Settles O38, by the two cases of the range test. -/
theorem writeGridWritesOneCellOrNothing : Obligations.WriteGridWritesOneCellOrNothing := by
  unfold Obligations.WriteGridWritesOneCellOrNothing
  intro address data s hlife hbuf
  obtain ⟨t, h⟩ := exec_completes_of_active (i := .wrgrid address data) hlife rfl rfl
  refine ⟨t, h, ?_⟩
  obtain ⟨hge, rfl⟩ | ⟨a, ha, ht⟩ := execWrgrid_next h
  · obtain ⟨hret, hkeeps, hsilent, hcontrol⟩ := s.returnNothing_spec
    exact ⟨hcontrol, hret, fun a ha => by omega, fun _ => ⟨hkeeps, hsilent⟩⟩
  · obtain ⟨hcell, hsends, hcontrol, hret⟩ := State.storeCellAndSend_spec ht
    refine ⟨hcontrol, hret, fun b hb => ?_, fun hge => by omega⟩
    obtain rfl : b = a := Fin.ext (hb.trans ha.symm)
    obtain ⟨hread, hothers⟩ := State.writeCell_spec hbuf hcell
    obtain ⟨hlength, hdly⟩ := hsends.counts
    exact ⟨hread, hothers, State.sends_two_iff.mp hsends, hlength, hdly, hsends.busIdle (List.cons_ne_nil _ _)⟩

/-- Settles O42, by the two cases of the range test. -/
theorem setBufferStagesOneCell : Obligations.SetBufferStagesOneCell := by
  unfold Obligations.SetBufferStagesOneCell
  intro address data s hlife hbuf
  obtain ⟨t, h⟩ := exec_completes_of_active (i := .setbuf address data) hlife rfl rfl
  refine ⟨t, h, ?_⟩
  obtain ⟨hge, rfl⟩ | ⟨a, ha, ht⟩ := execSetbuf_next h
  · obtain ⟨hret, hkeeps, hsilent, hcontrol⟩ := s.returnNothing_spec
    exact ⟨fun a ha => by omega, fun _ => hkeeps, hsilent, hcontrol, hret⟩
  · obtain ⟨hcell, hframe⟩ := State.stage_spec ht
    refine ⟨fun b hb => ?_, fun hge => by omega, hframe⟩
    obtain rfl : b = a := Fin.ext (hb.trans ha.symm)
    exact State.writeCell_spec hbuf hcell

/-- The masked bits of a byte take the value `set`, the others stay (R108). -/
theorem getLsbD_masked (x mask : Byte) (set : Bool) {k : Nat} (hk : k < 8) :
    (if set then setMasked x mask else clearMasked x mask).getLsbD k =
      if mask.getLsbD k then set else x.getLsbD k := by
  cases set with
  | false =>
    rw [if_neg Bool.false_ne_true, clearMasked, BitVec.getLsbD_and, BitVec.getLsbD_not]
    cases mask.getLsbD k <;> simp [hk]
  | true =>
    rw [if_pos rfl, setMasked, BitVec.getLsbD_or]
    cases mask.getLsbD k <;> simp

/-- Settles O43: the cell is written with its masked bits changed. -/
theorem setBufferBitChangesMaskedBitsOnly : Obligations.SetBufferBitChangesMaskedBitsOnly := by
  unfold Obligations.SetBufferBitChangesMaskedBitsOnly
  intro address mask set s hlife hbuf
  obtain ⟨t, h⟩ := exec_completes_of_active (i := .setbit address mask set) hlife rfl rfl
  refine ⟨t, h, ?_⟩
  obtain ⟨hge, rfl⟩ | ⟨a, ha, ht⟩ := execSetbit_next h
  · obtain ⟨hret, hkeeps, hsilent, hcontrol⟩ := s.returnNothing_spec
    exact ⟨fun a ha => by omega, fun _ => hkeeps, hsilent, hcontrol, hret⟩
  · obtain ⟨hcell, hframe⟩ := State.stage_spec ht
    refine ⟨fun b hb => ?_, fun hge => by omega, hframe⟩
    obtain rfl : b = a := Fin.ext (hb.trans ha.symm)
    obtain ⟨hread, hothers⟩ := State.writeCell_spec hbuf hcell
    exact ⟨fun k hk => by rw [hread, getLsbD_masked _ _ _ hk], hothers⟩

/-- Settles O41. -/
theorem getBufferReturnsTheCell : Obligations.GetBufferReturnsTheCell := by
  unfold Obligations.GetBufferReturnsTheCell
  intro address s hlife
  obtain ⟨t, h⟩ := exec_completes_of_active (i := .getbuf address) hlife rfl rfl
  refine ⟨t, h, ?_⟩
  obtain ⟨hge, rfl⟩ | ⟨a, ha, rfl⟩ := execGetbuf_next h
  · obtain ⟨hret, -, hframe⟩ := s.returnByte_spec 0x00#8
    exact ⟨fun a ha => by omega, fun _ => hret, hframe⟩
  · obtain ⟨hret, -, hframe⟩ := s.returnByte_spec (s.buf.read a)
    refine ⟨fun b hb => ?_, fun hge => by omega, hframe⟩
    obtain rfl : b = a := Fin.ext (hb.trans ha.symm)
    exact hret

/-- Reading back a cell that a state holds. -/
theorem exec_getbuf_result {address : Byte} {a : GridAddr} (hlife : t.life = .active) (ha : a.val = address.toNat) :
    ∃ u, exec (.getbuf address) t = .next u ∧ u.result = t.buf.read a := by
  obtain ⟨u, h, hcell, -⟩ := getBufferReturnsTheCell address t hlife
  obtain ⟨hresult, -⟩ := hcell a ha
  exact ⟨u, h, hresult⟩

/-- Settles O55: either write leaves the byte in the cell and stays ACTIVE. -/
theorem getBufferReturnsTheLastWrite : Obligations.GetBufferReturnsTheLastWrite := by
  unfold Obligations.GetBufferReturnsTheLastWrite
  intro address v s hlife hbuf hlt
  have ha : (⟨address.toNat, hlt⟩ : GridAddr).val = address.toNat := rfl
  constructor
  · obtain ⟨t, hwrite, ⟨-, -, hkeeps⟩, -, hcell, -⟩ := writeGridWritesOneCellOrNothing address v s hlife hbuf
    obtain ⟨hread, -⟩ := hcell _ ha
    obtain ⟨u, hget, hresult⟩ := exec_getbuf_result (hkeeps.trans hlife) ha
    exact ⟨t, u, hwrite, hget, hresult.trans hread⟩
  · obtain ⟨t, hwrite, hcell, -, -, ⟨-, -, hkeeps⟩, -⟩ := setBufferStagesOneCell address v s hlife hbuf
    obtain ⟨hread, -⟩ := hcell _ ha
    obtain ⟨u, hget, hresult⟩ := exec_getbuf_result (hkeeps.trans hlife) ha
    exact ⟨t, u, hwrite, hget, hresult.trans hread⟩

/-! ### Display control and life cycle -/

/-- What an operation leaves that sends the display control and returns nothing (R110, R111): one frame of one byte. -/
theorem State.sendControl_spec (ht : t = s.sendDisplayControl.returnNothing) :
    s.Sends t [[buildDisplayControl s.en (s.brt.setWidth 8)]] ∧ t.dev = s.sendDisplayControl.dev ∧ s.KeepsBuffer t ∧
    s.KeepsControl t ∧ s.ReturnsNothing t := by
  subst ht
  simp [State.sends_one_iff, State.Emits, State.KeepsBuffer, State.KeepsControl, State.ReturnsNothing,
    State.sendDisplayControl_eq]

/-- `setBrightness` sends the byte of the level as it was given: the encoder masks it too (R92, R110). -/
theorem State.sends_setBrt {level : Byte} (ht : t = (s.setBrt (lowThree level)).sendDisplayControl.returnNothing) :
    s.Sends t [[buildDisplayControl s.en level]] := by
  obtain ⟨hsends, -⟩ := State.sendControl_spec ht
  obtain ⟨-, hbyte⟩ := lowThree_spec level
  rw [State.setBrt_en, State.setBrt_brt, hbyte] at hsends
  exact (s.silent_setBrt _).sends hsends

/-- Settles O35: the low three bits are the remainder by 8, and all that the display control byte takes. -/
theorem setBrightnessStoresLowThreeBits : Obligations.SetBrightnessStoresLowThreeBits := by
  unfold Obligations.SetBrightnessStoresLowThreeBits
  intro level s hlife
  obtain ⟨t, h⟩ := exec_completes_of_active (i := .setbrt level) hlife rfl rfl
  have ht := State.eq_of_whenActive_next h
  obtain ⟨-, -, hbuf, ⟨hen, hbrt, hkeeps⟩, hret⟩ := State.sendControl_spec ht
  obtain ⟨hmod, -⟩ := lowThree_spec level
  have hsends := State.sends_setBrt ht
  obtain ⟨hlength, hdly⟩ := hsends.counts
  exact ⟨t, h, hbrt ▸ hmod, hen, hkeeps, State.sends_one_iff.mp hsends, hlength, hdly,
    hsends.busIdle (List.cons_ne_nil _ _), hbuf, hret⟩

/-- `setDisplayOn` sends the byte of the new `EN` (R111). -/
theorem State.sends_setEn {on : Bool} (ht : t = (s.setEn on).sendDisplayControl.returnNothing) :
    s.Sends t [[buildDisplayControl on (s.brt.setWidth 8)]] := by
  obtain ⟨hsends, -⟩ := State.sendControl_spec ht
  exact (s.silent_setEn on).sends hsends

/-- Settles O36: the display control frame leaves the memory of the observer as it is. -/
theorem setDisplayOnSendsTheDisplayControl : Obligations.SetDisplayOnSendsTheDisplayControl := by
  unfold Obligations.SetDisplayOnSendsTheDisplayControl
  intro on s hlife
  obtain ⟨t, h⟩ := exec_completes_of_active (i := .seton on) hlife rfl rfl
  have ht := State.eq_of_whenActive_next h
  obtain ⟨-, hdev, hbuf, ⟨hen, hbrt, hkeeps⟩, hret⟩ := State.sendControl_spec ht
  have hsends := State.sends_setEn ht
  obtain ⟨hlength, hdly⟩ := hsends.counts
  refine ⟨t, h, hen, hbrt, hkeeps, State.sends_one_iff.mp hsends, hlength, hdly,
    hsends.busIdle (List.cons_ne_nil _ _), fun hrx => ?_, hbuf, hret⟩
  rw [hdev, State.sendDisplayControl_dev (by rw [State.setEn_wire, hrx]), State.setEn_dev]

/-- `deinit()` sends the display control for off and then only gives up the lines (R102). -/
theorem execDeinit_next (h : execDeinit s = .next t) :
    s.Sends (s.setEn false).sendDisplayControl [[buildDisplayControl false (s.brt.setWidth 8)]] ∧
    (s.setEn false).sendDisplayControl.Emits t [.rel] ∧ t.en = false ∧ t.life = .released ∧
    s.KeepsBuffer t ∧ t.brt = s.brt ∧ s.ReturnsNothing t := by
  obtain rfl := State.eq_of_whenActive_next h
  simp [State.sends_one_iff, State.Emits, State.KeepsBuffer, State.ReturnsNothing, State.sendDisplayControl_eq,
    State.releaseLines]

/-- Settles O34: the display control frame, then the release of the lines. -/
theorem deinitSwitchesOffAndReleases : Obligations.DeinitSwitchesOffAndReleases := by
  unfold Obligations.DeinitSwitchesOffAndReleases
  intro s hlife
  obtain ⟨t, h⟩ := exec_completes_of_active (i := .deinit) hlife rfl rfl
  obtain ⟨hsends, hrel, hen, hreleased, hframe⟩ := execDeinit_next h
  have hemits := (State.sends_one_iff.mp hsends).trans hrel
  obtain ⟨hlength, hdly⟩ := hemits.counts
  rw [List.length_append, frameEvents_length] at hlength
  rw [dlyCount_append, dlyCount_frameEvents] at hdly
  obtain ⟨-, hwire⟩ := hrel
  rw [List.foldl_cons, List.foldl_nil, step_rel] at hwire
  exact ⟨t, h, hen, hreleased, congrArg Wire.clk hwire, congrArg Wire.dat hwire, hemits, hlength, hdly, hframe⟩

/-- `init()` fills and sends the buffer, then sends the display control of the initial state (R101). -/
theorem execInit_next (h : execInit s = .next t) :
    t.buf = s.buf.fill 0x00#8 ∧ t.en = true ∧ t.brt = Config.initBrightness ∧ t.life = .active ∧
    s.Sends t [[buildDataCommand .autoIncrement], buildAddress 0 :: List.replicate 16 0x00#8,
      [buildDisplayControl true (Config.initBrightness.setWidth 8)]] ∧
    s.ReturnsNothing t := by
  obtain rfl := Host.Outcome.next.inj h
  simp [State.Sends, State.Emits, State.ReturnsNothing, State.sendRun_eq, State.sendDisplayControl_eq]

/-- Settles O33: three frames of 19 bytes in all. -/
theorem initBringsTheKnownStartState : Obligations.InitBringsTheKnownStartState := by
  unfold Obligations.InitBringsTheKnownStartState
  intro s hbuf
  obtain ⟨t, h⟩ : ∃ t, exec .init s = .next t := ⟨_, rfl⟩
  obtain ⟨hfill, hen, hbrt, hactive, hsends, hret⟩ := execInit_next h
  obtain ⟨hlength, hdly⟩ := hsends.counts
  refine ⟨t, h, fun a => ?_, hen, hbrt, hactive, State.sends_three_iff.mp hsends, hlength, hdly,
    hsends.busIdle (List.cons_ne_nil _ _), hret⟩
  rw [hfill, Memory.read_fill hbuf]

/-! ### The table of frames -/

/-- The display control byte as R92 gives it, with the default parameters (log 14). -/
theorem buildDisplayControl_eq (en : Bool) (b : Byte) :
    buildDisplayControl en b = if en then 0x88#8 ||| (b &&& 0x7#8) else 0x80#8 := by
  cases en <;> rfl

/-- The byte of a stored brightness needs no mask. -/
theorem buildDisplayControl_brt (en : Bool) (brt : Brightness) :
    buildDisplayControl en (brt.setWidth 8) = if en then 0x88#8 ||| brt.setWidth 8 else 0x80#8 := by
  cases en with
  | false => rfl
  | true => exact buildDisplayControl_on brt

/-- The address command byte of an operand below 16, with the default base (log 13). -/
theorem buildAddress_of_val {a : GridAddr} {b : Byte} (h : a.val = b.toNat) : buildAddress a = 0xC0#8 ||| b := by
  rw [buildAddress, h, BitVec.ofNat_toNat, BitVec.setWidth_eq, Config.addrCmdBase]

/-- Settles O50: the frames that each operation sends, their bytes written out with the default parameters. -/
theorem hostOperationsAddTheirFrames : Obligations.HostOperationsAddTheirFrames := by
  unfold Obligations.HostOperationsAddTheirFrames
  intro i s t hinv hop h
  cases i with
  | init =>
    obtain ⟨-, -, -, -, hsends, -⟩ := execInit_next h
    exact hsends.frames_trace hinv
  | deinit =>
    obtain ⟨hsends, ⟨htrace, -⟩, -⟩ := execDeinit_next h
    rw [htrace, frames_append_rel]
    exact hsends.frames_trace hinv
  | setbrt level =>
    have hsends := State.sends_setBrt (State.eq_of_whenActive_next h)
    rw [hsends.frames_trace hinv, buildDisplayControl_eq, hostFrames]
  | seton on =>
    have hsends := State.sends_setEn (State.eq_of_whenActive_next h)
    rw [hsends.frames_trace hinv, buildDisplayControl_brt, hostFrames]
  | clear | test =>
    obtain ⟨-, hsends, -⟩ := State.storeAndSend_spec (State.eq_of_whenActive_next h)
    exact hsends.frames_trace hinv
  | flush =>
    obtain ⟨-, hsends, -⟩ := State.storeAndSend_spec (State.flush_eq (State.eq_of_whenActive_next h))
    exact hsends.frames_trace hinv
  | wrgrid address data =>
    obtain ⟨hge, rfl⟩ | ⟨a, ha, ht⟩ := execWrgrid_next h
    · rw [s.silent_returnNothing.frames_trace, hostFrames, if_neg (by omega)]
    · obtain ⟨-, hsends, -⟩ := State.storeCellAndSend_spec ht
      rw [hsends.frames_trace hinv, buildAddress_of_val ha, hostFrames, if_pos (by omega)]
      rfl
  | wrarr start length data =>
    obtain ⟨hge, rfl⟩ | ⟨a, ha, -, ht⟩ := execWrarr_next h
    · rw [s.silent_returnNothing.frames_trace, hostFrames, if_neg (by omega)]
    · obtain ⟨-, hsends, -⟩ := State.storeAndSend_spec ht
      rw [hsends.frames_trace hinv, buildAddress_of_val ha, runCount, ha, hostFrames, if_pos (by omega)]
      rfl
  | getbuf =>
    obtain ⟨-, rfl⟩ | ⟨a, -, rfl⟩ := execGetbuf_next h <;> exact (s.silent_returnByte _).frames_trace
  | setbuf =>
    obtain ⟨-, rfl⟩ | ⟨a, -, ht⟩ := execSetbuf_next h
    · exact s.silent_returnNothing.frames_trace
    · obtain ⟨-, hsilent, -⟩ := State.stage_spec ht
      exact hsilent.frames_trace
  | setbit =>
    obtain ⟨-, rfl⟩ | ⟨a, -, ht⟩ := execSetbit_next h
    · exact s.silent_returnNothing.frames_trace
    · obtain ⟨-, hsilent, -⟩ := State.stage_spec ht
      exact hsilent.frames_trace
  | digit | hex | char =>
    obtain rfl := Host.Outcome.next.inj h
    exact (s.silent_returnByte _).frames_trace
  | reserved15 => cases h
  | _ => cases hop

end Sys2Proof.Machine
end

section
/-! SUPPORT. The pattern lookups (43_pattern_table.md): the entry that each lookup reads, range by range of its operand,
and the settled statements. That a lookup returns its entry and changes nothing else (R130) is `State.returnByte_spec`. -/

namespace Sys2Proof.Machine

/-! ### The entries they read -/

/-- The digit of an operand is the entry that R135 names, counted in the table as a list. -/
theorem digitTable_clamped (d : Byte) : Config.digitTable.toList[min d.toNat 9]? = some (digitGlyph d) := by
  unfold digitGlyph
  split
  case isTrue hle => rw [Nat.min_eq_left hle, Vector.getElem?_toList, Vector.getElem?_eq_getElem]
  case isFalse hgt => rw [Nat.min_eq_right (by omega), Vector.getElem?_toList, Vector.getElem?_eq_getElem]

/-- Up to 9 a hexadecimal digit is the decimal one (R136). -/
theorem hexGlyph_eq_digitGlyph {h : Byte} (hle : h.toNat ≤ 9) : hexGlyph h = digitGlyph h := by
  rw [hexGlyph, dif_pos hle, digitGlyph, dif_pos hle]

/-- From 10 to 15 a hexadecimal digit is a letter of its own table (R136). -/
theorem hexLetterTable_of_hexGlyph {h : Byte} (hge : 10 ≤ h.toNat) (hle : h.toNat ≤ 15) :
    Config.hexLetterTable.toList[h.toNat - 10]? = some (hexGlyph h) := by
  rw [hexGlyph, dif_neg (by omega), dif_pos hle, Vector.getElem?_toList, Vector.getElem?_eq_getElem]

/-- Above 15 there is no hexadecimal digit (R136). -/
theorem hexGlyph_above {h : Byte} (hgt : 15 < h.toNat) : hexGlyph h = 0x00#8 := by
  rw [hexGlyph, dif_neg (by omega), dif_neg (by omega), Config.blank]

/-- The character of a digit has the pattern of that digit (R137). -/
theorem charGlyph_digit {c d : Byte} (hc : c.toNat = 0x30 + d.toNat) (hd : d.toNat ≤ 9) :
    charGlyph c = digitGlyph d := by
  have hdigit : 0x30 ≤ c.toNat ∧ c.toNat ≤ 0x39 := by omega
  calc charGlyph c
    _ = Config.digitTable[c.toNat - 0x30] := dif_pos hdigit
    _ = Config.digitTable[d.toNat] := by simp only [hc, Nat.add_sub_cancel_left]
    _ = digitGlyph d := by rw [digitGlyph, dif_pos hd]

/-- An upper-case letter has the pattern of its place in the alphabet (R137). -/
theorem charGlyph_upper {c : Byte} {k : Fin 26} (hc : c.toNat = 0x41 + k.val) :
    charGlyph c = Config.letterTable k := by
  have hdigit : ¬(0x30 ≤ c.toNat ∧ c.toNat ≤ 0x39) := by omega
  have hupper : 0x41 ≤ c.toNat ∧ c.toNat ≤ 0x5A := by omega
  calc charGlyph c
    _ = Config.letterTable ⟨c.toNat - 0x41, by omega⟩ := (dif_neg hdigit).trans (dif_pos hupper)
    _ = Config.letterTable k := by simp only [hc, Nat.add_sub_cancel_left]

/-- A lower-case letter has the pattern of its place in the alphabet, from the same table (R137). -/
theorem charGlyph_lower {c : Byte} {k : Fin 26} (hc : c.toNat = 0x61 + k.val) :
    charGlyph c = Config.letterTable k := by
  have hdigit : ¬(0x30 ≤ c.toNat ∧ c.toNat ≤ 0x39) := by omega
  have hupper : ¬(0x41 ≤ c.toNat ∧ c.toNat ≤ 0x5A) := by omega
  have hlower : 0x61 ≤ c.toNat ∧ c.toNat ≤ 0x7A := by omega
  calc charGlyph c
    _ = Config.letterTable ⟨c.toNat - 0x61, by omega⟩ :=
      (dif_neg hdigit).trans ((dif_neg hupper).trans (dif_pos hlower))
    _ = Config.letterTable k := by simp only [hc, Nat.add_sub_cancel_left]

/-- A code outside the ranges of digits and letters is one of the two signs, or blank (R134, R137). -/
theorem charGlyph_sign {c : Byte} (hdigit : ¬(0x30 ≤ c.toNat ∧ c.toNat ≤ 0x39))
    (hupper : ¬(0x41 ≤ c.toNat ∧ c.toNat ≤ 0x5A)) (hlower : ¬(0x61 ≤ c.toNat ∧ c.toNat ≤ 0x7A)) :
    charGlyph c = if c.toNat = 0x2D then 0x40#8 else if c.toNat = 0x5F then 0x08#8 else 0x00#8 :=
  (dif_neg hdigit).trans ((dif_neg hupper).trans (dif_neg hlower))

/-! ### The lookups performed -/

theorem exec_digit (d : Byte) (s : State) : exec (.digit d) s = .next (s.returnByte (digitGlyph d)) := rfl

theorem exec_hex (h : Byte) (s : State) : exec (.hex h) s = .next (s.returnByte (hexGlyph h)) := rfl

theorem exec_char (c : Byte) (s : State) : exec (.char c) s = .next (s.returnByte (charGlyph c)) := rfl

/-- Settles O48: the ranges of R137 one by one, letters of both cases by their place in the alphabet. -/
theorem charPatternReadsTheGlyph : Obligations.CharPatternReadsTheGlyph := by
  unfold Obligations.CharPatternReadsTheGlyph
  intro c s
  obtain ⟨hreturns, hframe⟩ := s.returnByte_spec (charGlyph c)
  refine ⟨_, charGlyph c, exec_char c s, hreturns, ?digit, ?letter, ?dash, ?underscore, ?blank, hframe⟩
  case digit =>
    intro hge hle
    have hd : (c - 0x30#8).toNat = c.toNat - 0x30 := by bv_omega
    rw [charGlyph_digit (d := c - 0x30#8) (by omega) (by omega), ← digitTable_clamped, hd, Nat.min_eq_left (by omega)]
  case letter =>
    rintro k (hupper | hlower)
    · exact charGlyph_upper hupper
    · exact charGlyph_lower hlower
  case dash =>
    intro hc
    rw [charGlyph_sign (by omega) (by omega) (by omega), if_pos hc]
  case underscore =>
    intro hc
    rw [charGlyph_sign (by omega) (by omega) (by omega), if_neg (by omega), if_pos hc]
  case blank =>
    intro hc
    rw [charGlyph_sign (by omega) (by omega) (by omega), if_neg (by omega), if_neg (by omega)]

/-- Settles O46. -/
theorem digitPatternClampsToNine : Obligations.DigitPatternClampsToNine := by
  unfold Obligations.DigitPatternClampsToNine
  intro d s
  exact ⟨_, digitGlyph d, exec_digit d s, digitTable_clamped d, s.returnByte_spec (digitGlyph d)⟩

/-- Settles O47, by the three ranges of the operand. -/
theorem hexPatternReadsTwoTables : Obligations.HexPatternReadsTwoTables := by
  unfold Obligations.HexPatternReadsTwoTables
  intro h s
  obtain ⟨hreturns, hframe⟩ := s.returnByte_spec (hexGlyph h)
  refine ⟨_, hexGlyph h, exec_hex h s, hreturns, ?digit, hexLetterTable_of_hexGlyph, hexGlyph_above, hframe⟩
  case digit =>
    intro hle
    rw [hexGlyph_eq_digitGlyph hle, ← digitTable_clamped, Nat.min_eq_left hle]

/-- Settles O49: each lookup returns its entry, so that equal entries make equal outcomes. -/
theorem patternLookupsAgree : Obligations.PatternLookupsAgree := by
  unfold Obligations.PatternLookupsAgree
  intro s
  refine ⟨exec_digit 0x07#8 s, ?eight, ?letter, ?blank⟩
  case eight =>
    rw [exec_char, exec_digit, charGlyph_digit (d := 0x08#8) rfl (by decide)]
  case letter =>
    intro c hge hle
    obtain ⟨k, hlower⟩ : ∃ k : Fin 26, c.toNat = 0x61 + k.val :=
      ⟨⟨c.toNat - 0x61, by omega⟩, (Nat.add_sub_cancel' hge).symm⟩
    have hupper : (c - 0x20#8).toNat = 0x41 + k.val := by bv_omega
    rw [exec_char, exec_char, charGlyph_lower hlower, charGlyph_upper hupper]
  case blank =>
    rw [exec_char, charGlyph_sign (by decide) (by decide) (by decide), if_neg (by decide), if_neg (by decide)]

end Sys2Proof.Machine
end

section
/-! SUPPORT. The laws of `setBufferBit` (44_operation_laws.md R122). What one operation leaves, cell by cell and bit by bit,
takes the masked bits of the addressed cell from its own `set`; so of two operations with one address and mask the later
decides them, and the earlier leaves no trace in the buffer. -/

namespace Sys2Proof.Machine

variable {s t u w : State} {address mask : Byte} {set earlier later : Bool}

/-- `setBufferBit` keeps the canonical form of the buffer. -/
theorem execSetbit_wf (hbuf : s.buf.wf = true) (h : execSetbit address mask set s = .next t) : t.buf.wf = true := by
  obtain ⟨-, rfl⟩ | ⟨a, -, rfl⟩ := execSetbit_next h
  · rw [State.returnNothing_buf, hbuf]
  · rw [State.returnNothing_buf, State.setBuf_buf, Memory.wf_write hbuf]

/-- Every bit of every cell after `setBufferBit`; past grid 15 the test picks no cell (R108). -/
theorem execSetbit_getLsbD_read (hbuf : s.buf.wf = true) (h : execSetbit address mask set s = .next t) (b : GridAddr)
    {k : Nat} (hk : k < 8) :
    (t.buf.read b).getLsbD k =
      if b.val = address.toNat ∧ mask.getLsbD k = true then set else (s.buf.read b).getLsbD k := by
  obtain ⟨hge, rfl⟩ | ⟨a, ha, ht⟩ := execSetbit_next h
  · rw [State.returnNothing_buf, if_neg (by omega)]
  · obtain ⟨hcell, -⟩ := State.stage_spec ht
    obtain ⟨hread, hothers⟩ := State.writeCell_spec hbuf hcell
    by_cases hb : b = a
    · rw [hb, hread, getLsbD_masked _ _ _ hk]
      simp only [ha, true_and]
    · rw [hothers b hb, if_neg fun ⟨hval, _⟩ => hb (Fin.ext (hval.trans ha.symm))]

/-- With one address and mask, the later of two `setBufferBit` leaves the buffer it leaves on its own. -/
theorem execSetbit_later_wins (hbuf : s.buf.wf = true) (ht : execSetbit address mask earlier s = .next t)
    (hu : execSetbit address mask later t = .next u) (hw : execSetbit address mask later s = .next w) :
    w.KeepsBuffer u := by
  intro b
  refine BitVec.eq_of_getLsbD_eq fun k hk => ?_
  rw [execSetbit_getLsbD_read (execSetbit_wf hbuf ht) hu b hk, execSetbit_getLsbD_read hbuf ht b hk,
    execSetbit_getLsbD_read hbuf hw b hk]
  by_cases hsel : b.val = address.toNat ∧ mask.getLsbD k = true
  · rw [if_pos hsel, if_pos hsel]
  · rw [if_neg hsel, if_neg hsel, if_neg hsel]

/-- Settles O56: idempotence is the later operation winning over an equal earlier one. -/
theorem setBufferBitLaws : Obligations.SetBufferBitLaws := by
  unfold Obligations.SetBufferBitLaws
  intro address mask v s t u hbuf ht
  exact ⟨fun hu => execSetbit_later_wins hbuf ht hu ht, fun _ hu hw => execSetbit_later_wins hbuf ht hu hw⟩

end Sys2Proof.Machine
end

section
/-! SUPPORT. What can stop an operation and what an operation can see (60_exceptions.md R145, R147). Two states that agree on
everything but the observer still agree after one and the same update of both, whatever the observer does with the events;
each operation is a composition of such updates whose operands and admission are read from what the states agree on. -/

namespace Sys2Proof.Machine

variable {s t : State}

/-! ### The observer is not read: fields -/

theorem State.SameButObserver.buf_eq (h : s.SameButObserver t) : t.buf = s.buf := by
  obtain ⟨hbuf, -⟩ := h
  exact hbuf

theorem State.SameButObserver.life_eq (h : s.SameButObserver t) : t.life = s.life := by
  obtain ⟨-, -, -, hlife, -⟩ := h
  exact hlife

/-! ### The observer is not read: updates -/

theorem State.SameButObserver.setBuf (h : s.SameButObserver t) (m : Memory) :
    (s.setBuf m).SameButObserver (t.setBuf m) := by
  simp_all [State.SameButObserver, State.clk, State.dat]

theorem State.SameButObserver.setBuf_write (h : s.SameButObserver t) (a : GridAddr) (v : Byte) :
    (s.setBuf (s.buf.write a v)).SameButObserver (t.setBuf (t.buf.write a v)) := by
  rw [h.buf_eq]
  exact h.setBuf _

theorem State.SameButObserver.fillBuffer (h : s.SameButObserver t) (v : Byte) :
    (s.fillBuffer v).SameButObserver (t.fillBuffer v) := by
  rw [State.fillBuffer, State.fillBuffer, h.buf_eq]
  exact h.setBuf _

theorem State.SameButObserver.setEn (h : s.SameButObserver t) (v : Bool) :
    (s.setEn v).SameButObserver (t.setEn v) := by
  simp_all [State.SameButObserver, State.clk, State.dat]

theorem State.SameButObserver.setBrt (h : s.SameButObserver t) (v : Brightness) :
    (s.setBrt v).SameButObserver (t.setBrt v) := by
  simp_all [State.SameButObserver, State.clk, State.dat]

theorem State.SameButObserver.setLife (h : s.SameButObserver t) (v : Life) :
    (s.setLife v).SameButObserver (t.setLife v) := by
  simp_all [State.SameButObserver, State.clk, State.dat]

theorem State.SameButObserver.returnByte (h : s.SameButObserver t) (v : Byte) :
    (s.returnByte v).SameButObserver (t.returnByte v) := by
  simp_all [State.SameButObserver, State.clk, State.dat]

/-- The free value of `RESULT` is picked by the counter of draws, on which the states agree (log 7). -/
theorem State.SameButObserver.returnNothing (h : s.SameButObserver t) :
    s.returnNothing.SameButObserver t.returnNothing := by
  simp_all [State.SameButObserver, State.clk, State.dat]

theorem State.SameButObserver.setEncRet (h : s.SameButObserver t) (v : Byte) :
    (s.setEncRet v).SameButObserver (t.setEncRet v) := by
  simp_all [State.SameButObserver, State.clk, State.dat]

/-- The one update that runs the observer: the latches after the events are a function of the latches before them
(40_bus_protocol.md R70), so no difference of the observers gets out. -/
theorem State.SameButObserver.emits (h : s.SameButObserver t) (es : List Event) :
    (s.emits es).SameButObserver (t.emits es) := by
  obtain ⟨hbuf, hen, hbrt, hlife, hclk, hdat, htrace, hresult, hdraws, hencRet, hport⟩ := h
  have hlines : linesAfterAll (t.clk, t.dat) es = linesAfterAll (s.clk, s.dat) es := by rw [hclk, hdat]
  refine ⟨hbuf, hen, hbrt, hlife, ?clk, ?dat, ?trace, hresult, hdraws, hencRet, hport⟩
  case clk => rw [State.emits_clk, State.emits_clk, hlines]
  case dat => rw [State.emits_dat, State.emits_dat, hlines]
  case trace => rw [State.emits_trace, State.emits_trace, htrace]

/-! ### The observer is not read: bus sequences -/

theorem State.SameButObserver.sendCommand (h : s.SameButObserver t) (b : Byte) :
    (s.sendCommand b).SameButObserver (t.sendCommand b) := by
  rw [State.sendCommand_eq, State.sendCommand_eq]
  exact h.emits _

theorem State.SameButObserver.writeBlock (h : s.SameButObserver t) (a : GridAddr) (bytes : List Byte) :
    (s.writeBlock a bytes).SameButObserver (t.writeBlock a bytes) := by
  rw [State.writeBlock_eq, State.writeBlock_eq]
  exact h.emits _

theorem State.SameButObserver.sendRun (h : s.SameButObserver t) (a : GridAddr) (bytes : List Byte) :
    (s.sendRun a bytes).SameButObserver (t.sendRun a bytes) := by
  rw [State.sendRun_eq, State.sendRun_eq]
  exact h.emits _

theorem State.SameButObserver.sendDisplayControl (h : s.SameButObserver t) :
    s.sendDisplayControl.SameButObserver t.sendDisplayControl := by
  have ⟨_, hen, hbrt, _⟩ := h
  rw [State.sendDisplayControl_eq, State.sendDisplayControl_eq, hen, hbrt]
  exact h.emits _

/-! ### The observer is not read: admission and operations -/

/-- The admission test reads `LIFE` alone: both states are refused alike, or both operations are performed (R100). -/
theorem State.SameButObserver.whenActive (h : s.SameButObserver t) {k k' : Host.Outcome State Fault Refusal}
    (hk : sameButObserver State.SameButObserver k k') :
    sameButObserver State.SameButObserver (s.whenActive k) (t.whenActive k') := by
  by_cases hlife : s.life = .active
  · rw [State.whenActive_active hlife, State.whenActive_active (h.life_eq.trans hlife)]
    exact hk
  · rw [State.whenActive_inactive hlife, State.whenActive_inactive (h.life_eq ▸ hlife), h.life_eq]
    rfl

/-- Settles O14: each operation by the rules of its updates, in the operation's own order. -/
theorem deviceIsInvisibleToTheEngine : Obligations.DeviceIsInvisibleToTheEngine := by
  unfold Obligations.DeviceIsInvisibleToTheEngine
  intro i s t h
  cases i with
  | dataAuto | dataFixed | dispOff | dispOn | sendCommand => exact h.sendCommand _
  | addr a => exact h.writeBlock a []
  | delay | driveClock | driveData | start | stop | writeByte | writeAddress | releaseLines => exact h.emits _
  | writeBlock a bytes =>
    simp only [exec, execWriteBlock]
    split
    · exact h.writeBlock a bytes
    · rfl
  | buildDataCommand | buildDisplayControl | buildAddress => exact h.setEncRet _
  | digit | hex | char => exact h.returnByte _
  | reserved15 => rfl
  | init =>
    exact ((((((h.fillBuffer _).sendRun _ _).setEn true).setBrt Config.initBrightness).sendDisplayControl).setLife
      .active).returnNothing
  | deinit => exact h.whenActive (((h.setEn false).sendDisplayControl.emits [.rel]).setLife .released).returnNothing
  | setbrt level => exact h.whenActive (h.setBrt (lowThree level)).sendDisplayControl.returnNothing
  | seton on => exact h.whenActive (h.setEn on).sendDisplayControl.returnNothing
  | clear | test => exact h.whenActive ((h.fillBuffer _).sendRun _ _).returnNothing
  | flush =>
    simp only [exec, execFlush, h.buf_eq]
    exact h.whenActive (h.sendRun 0 s.buf.bytes).returnNothing
  | wrgrid address data =>
    refine h.whenActive ?_
    cases gridAddr? address with
    | none => exact h.returnNothing
    | some a => exact (((h.setBuf_write a data).sendCommand _).writeBlock a [data]).returnNothing
  | wrarr start length data =>
    simp only [exec, execWrarr, h.buf_eq]
    refine h.whenActive ?_
    cases gridAddr? start with
    | none => exact h.returnNothing
    | some a =>
      dsimp only
      split
      · rfl
      · exact ((h.setBuf _).sendRun a _).returnNothing
  | getbuf address =>
    simp only [exec, execGetbuf, h.buf_eq]
    refine h.whenActive ?_
    cases gridAddr? address with
    | none => exact h.returnByte _
    | some a => exact h.returnByte (s.buf.read a)
  | setbuf address data =>
    refine h.whenActive ?_
    cases gridAddr? address with
    | none => exact h.returnNothing
    | some a => exact (h.setBuf_write a data).returnNothing
  | setbit address mask set =>
    simp only [exec, execSetbit, h.buf_eq]
    refine h.whenActive ?_
    cases gridAddr? address with
    | none => exact h.returnNothing
    | some a => cases set <;> exact (h.setBuf _).returnNothing

/-! ### Completion -/

/-- Settles O15: a guarded operation is admitted in ACTIVE, a block has its operand range, and nothing else is tested. -/
theorem admittedOperationsComplete : Obligations.AdmittedOperationsComplete := by
  unfold Obligations.AdmittedOperationsComplete
  intro i s hwf hreserved hactive
  cases i with
  | reserved15 => exact absurd rfl hreserved
  | deinit | setbrt | seton | clear | wrgrid | wrarr | getbuf | setbuf | setbit | flush | test =>
    exact exec_completes_of_active (hactive rfl) rfl hwf
  | writeBlock a bytes => exact ⟨_, if_pos (of_decide_eq_true hwf)⟩
  | dataAuto | dataFixed | dispOff | dispOn | addr | init | digit | hex | char | delay | driveClock | driveData | start
  | stop | writeByte | sendCommand | writeAddress | releaseLines | buildDataCommand | buildDisplayControl
  | buildAddress => exact ⟨_, rfl⟩

end Sys2Proof.Machine
end

section
/-! SUPPORT. The life cycle (10_state.md R15, 70_reset_and_hazards.md R163). `LIFE` stands outside what an update of another
register or a bus sequence reaches; `init()` and `deinit()` alone write it, and every guarded operation tests it before
anything else (42_driver_api.md R100). -/

namespace Sys2Proof.Machine

variable {s t : State}

/-! ### `LIFE` after a bus sequence -/

@[simp] theorem State.sendCommand_life (s : State) (b : Byte) : (s.sendCommand b).life = s.life := by
  rw [State.sendCommand_eq, State.emits_life]

@[simp] theorem State.writeBlock_life (s : State) (a : GridAddr) (bytes : List Byte) :
    (s.writeBlock a bytes).life = s.life := by
  rw [State.writeBlock_eq, State.emits_life]

@[simp] theorem State.sendRun_life (s : State) (a : GridAddr) (bytes : List Byte) :
    (s.sendRun a bytes).life = s.life := by
  rw [State.sendRun_eq, State.emits_life]

@[simp] theorem State.sendDisplayControl_life (s : State) : s.sendDisplayControl.life = s.life := by
  rw [State.sendDisplayControl_eq, State.emits_life]

/-! ### Admission -/

/-- Outside ACTIVE a guarded operation is refused, whatever its operands (R100). -/
theorem exec_refused_of_inactive {i : Instr} (hi : needsActive i = true) (hlife : s.life ≠ .active) :
    exec i s = .refused (.notActive s.life) := by
  cases i with
  | deinit | setbrt | seton | clear | wrgrid | wrarr | getbuf | setbuf | setbit | flush | test =>
    exact State.whenActive_inactive hlife _
  | _ => cases hi

/-- A guarded operation that goes on was admitted. -/
theorem active_of_exec_next {i : Instr} (hi : needsActive i = true) (h : exec i s = .next t) : s.life = .active := by
  by_contra hlife
  rw [exec_refused_of_inactive hi hlife] at h
  cases h

/-! ### What an operation leaves in `LIFE` -/

/-- Every operation but `init()` and `deinit()` leaves `LIFE` alone (R163). -/
theorem exec_keeps_life {i : Instr} (hinit : i ≠ .init) (hdeinit : i ≠ .deinit) (h : exec i s = .next t) :
    t.life = s.life := by
  cases i with
  | init => exact absurd rfl hinit
  | deinit => exact absurd rfl hdeinit
  | dataAuto | dataFixed | dispOff | dispOn | addr | delay | driveClock | driveData | start | stop | writeByte
  | sendCommand | writeAddress | writeBlock | releaseLines =>
    obtain ⟨es, rfl, -⟩ := exec_next_of_drivesLinesOnly rfl h
    exact s.emits_life es
  | setbrt | seton | clear | test | flush =>
    obtain rfl := State.eq_of_whenActive_next h
    simp
  | wrgrid => obtain ⟨-, rfl⟩ | ⟨a, -, rfl⟩ := execWrgrid_next h <;> simp
  | wrarr => obtain ⟨-, rfl⟩ | ⟨a, -, -, rfl⟩ := execWrarr_next h <;> simp
  | setbuf => obtain ⟨-, rfl⟩ | ⟨a, -, rfl⟩ := execSetbuf_next h <;> simp
  | setbit => obtain ⟨-, rfl⟩ | ⟨a, -, rfl⟩ := execSetbit_next h <;> simp
  | getbuf => obtain ⟨-, rfl⟩ | ⟨a, -, rfl⟩ := execGetbuf_next h <;> simp
  | digit | hex | char =>
    obtain rfl := Host.Outcome.next.inj h
    exact s.returnByte_life _
  | buildDataCommand | buildDisplayControl | buildAddress =>
    obtain rfl := Host.Outcome.next.inj h
    exact s.setEncRet_life _
  | reserved15 => cases h

/-- Settles O16: the two operations that write `LIFE` by what each leaves when it goes on, the others by their frame and
their admission. -/
theorem lifeChangesOnlyByInitAndDeinit : Obligations.LifeChangesOnlyByInitAndDeinit := by
  unfold Obligations.LifeChangesOnlyByInitAndDeinit
  refine ⟨rfl, fun s t h => ?init, fun s t h => ?deinit, fun i s t => exec_keeps_life,
    fun i s => exec_refused_of_inactive⟩
  case init =>
    obtain ⟨-, -, -, hactive, -⟩ := execInit_next h
    exact hactive
  case deinit =>
    obtain ⟨-, -, -, hreleased, -⟩ := execDeinit_next h
    exact ⟨active_of_exec_next rfl h, hreleased⟩

end Sys2Proof.Machine
end
